-- ==== Sys2Proof/Word.lean ====
section
/-!
DEFINITION. The word types of the ush BFSK modem core.

Bit vectors stand only for what the spec treats as bits or as a fixed-width unsigned integer: bytes, the 32-bit
CRC, checksum, sequence number and cause value, the 64-bit timestamp, and binary32 patterns on the sample ports
(00_scope.md R11, 20_memory.md R64). Counters, sizes and buffer lengths are natural numbers (91_not_in_source.md
N2 leaves their widths free); the six ModConfig values are exact rationals (92_eei_decisions.md D5).
-/
namespace Sys2Proof

/-- A byte: 8 bits, an unsigned integer in 0..255 (00_scope.md R11). -/
abbrev Byte := BitVec 8

/-- A 32-bit unsigned value: checksum, sequence number, cause, `CSR.READ` result. -/
abbrev Word32 := BitVec 32

/-- A 64-bit unsigned value: the timestamp and the level on `time_in` (20_memory.md R62). -/
abbrev Word64 := BitVec 64

/-- One PCM sample: a whole binary32 value, held as its bit pattern (20_memory.md R64). -/
abbrev Sample := BitVec 32

end Sys2Proof
end

