-- ==== Sys2Proof/Config.lean ====
section
/-!
DEFINITION. What an implementation fixes: the constants of the frame layer (00_scope.md R9), the ModConfig record
(R7), the implementation parameters (R10) with the spec's defaults, and the free values (opaque constants without a
body, about which nothing can be proved).
-/
namespace Sys2Proof

/-- The six ModConfig values (00_scope.md R7), as exact rationals (92_eei_decisions.md D5). `sample_rate` is a
rational too, because `CFG.LOAD` writes the operand to its register before check 1 asks whether it is an integer
(40_config.md R130, R131). -/
structure ModConfig where
  sampleRate : Rat
  freq0 : Rat
  freq1 : Rat
  symbolDuration : Rat
  rampDuration : Rat
  amplitude : Rat
  deriving DecidableEq, Repr

/-- The defaults of the host's ModConfig record (00_scope.md R7). They are not reset values (10_state.md R22). -/
def ModConfig.defaults : ModConfig :=
  { sampleRate := 44100, freq0 := 18000, freq1 := 20000, symbolDuration := 1 / 100, rampDuration := 1 / 500, amplitude := 3 / 10 }

/-- How the modulator's samples relate to the real-number formula (41_modulator.md R158): the reference value
`f32(y)` itself, or any binary32 value within the tolerance `EPS_TX` of `y` (subject to R159 and the exact zeros). -/
inductive Sampling where
  | reference
  | within (epsTx : Rat)
  deriving DecidableEq, Repr

/-- The parameters `SER`, `SER_HDR`, `DESER` of 00_scope.md R10, named as plain data: the spec's compact-JSON instance, or another
one, whose three functions have no body (30_encoding.md R112, 92_eei_decisions.md D13, D14; log 10). -/
inductive TextFormat where
  | compactJson
  | other (instanceNumber : Nat)
  deriving DecidableEq, Repr

/-- The parameter `CFG_NUM_FORMAT` of 00_scope.md R10, named as plain data: the rational itself, or another format, whose
conversions have no body (92_eei_decisions.md D5; log 9). -/
inductive NumFormat where
  | rational
  | other (formatNumber : Nat)
  deriving DecidableEq, Repr

/-- The implementation parameters of 00_scope.md R10, as plain data. -/
structure Params where
  /-- `CAP`, the hard cap of `fdec_buf`. -/
  cap : Nat
  /-- `N_MAX`, the largest FFT size; `none` is unbounded. -/
  nMax : Option Nat
  /-- `EPS_TX`, or the reference samples. -/
  sampling : Sampling
  /-- `EPS_RX`, the relative width of the band around a tie. -/
  epsRx : Rat
  /-- `DEBUG_EVENTS`: whether `dbg_out` exists. -/
  debugEvents : Bool
  /-- `SER`, `SER_HDR`, `DESER`. -/
  textFormat : TextFormat
  /-- `CFG_NUM_FORMAT`. -/
  numFormat : NumFormat
  deriving DecidableEq, Repr

/-- The defaults of 00_scope.md R10: `CAP` 10000, `N_MAX` unbounded, `EPS_TX` `2^-20`, `EPS_RX` 0, no `dbg_out`,
compact JSON, exact rationals. -/
def Params.defaults : Params :=
  { cap := 10000, nMax := none, sampling := .within (1 / 1048576), epsRx := 0, debugEvents := false
    textFormat := .compactJson, numFormat := .rational }

/-- `HALF = floor(CAP / 2)`, the bytes kept on overflow (00_scope.md R10). -/
def Params.half (p : Params) : Nat := p.cap / 2

namespace Config

/-! The fixed constants of 00_scope.md R9. -/

/-- `PREAMBLE_BYTE`. -/
def preambleByte : Byte := 0xAA#8
/-- `PREAMBLE_LEN`. -/
def preambleLen : Nat := 8
/-- One byte of `DELIM`, which is this byte twice. -/
def delimByte : Byte := 0x7E#8
/-- `MAX_LEN`, the largest legal value of the length field. -/
def maxLen : Nat := 1024
/-- `PROTO_VERSION`. -/
def protoVersion : Byte := 1#8
/-- `CRC_POLY_REFLECTED`. -/
def crcPoly : Word32 := 0xEDB88320#32
/-- `CRC_INIT`. -/
def crcInit : Word32 := 0xFFFFFFFF#32
/-- `CRC_XOROUT`. -/
def crcXorOut : Word32 := 0xFFFFFFFF#32
/-- `SEARCH_HALF_WIDTH`, bins each side of a target bin. -/
def searchHalfWidth : Nat := 3
/-- The largest Message payload a 16-bit `payload_length` describes (43_frame_encoder.md R208). -/
def maxMessagePayload : Nat := 65535

/-! Free values. Each is an opaque constant without a body: no proof can see what it is. -/

/-- FREE VALUE (41_modulator.md R158, the function `SAMPLE(cfg, bit, i, first, last)`; log 11): what an implementation
would like to emit. The modulator uses it only where it lies in the set R158 allows. -/
opaque sampleChoice : ModConfig → Bool → Nat → Bool → Bool → Sample

/-- FREE VALUE (42_demodulator.md R178, R179; log 14): the detector's bit in draw number `n`. -/
opaque detectorBit : Nat → Bool

/-- FREE VALUE (10_state.md R33 (a); log 6): cell `i` of `fft_buf` after draw number `n`, a complex number. -/
opaque fftCell : Nat → Nat → Rat × Rat

/-- FREE VALUE (40_config.md R140, 60_exceptions.md R300; log 8): what a 32-bit value holds for a number that does not fit. -/
opaque wideWord : Nat → Word32

/-- FREE VALUE (10_state.md R30, 40_config.md R140; log 7): the 32-bit value of draw number `n`. -/
opaque unspecifiedWord : Nat → Word32

/-- FREE VALUE (10_state.md R30, 40_config.md R140; log 7): the rational value of draw number `n`. -/
opaque unspecifiedRat : Nat → Rat

/-- FREE VALUE (10_state.md R25, 40_config.md R137; log 5): element `i` of `rx_win` in draw number `n`. -/
opaque unspecifiedSample : Nat → Nat → Sample

/-- FREE VALUE (00_scope.md R10, `CFG_NUM_FORMAT`; log 9): the number that arrives in number format `n` for the number the host
means. -/
opaque numberReceived : Nat → Rat → Rat

/-- FREE VALUE (00_scope.md R10, `CFG_NUM_FORMAT`; log 9): the 32 bits that `CSR.READ` answers in number format `n` for a
rational-valued register. -/
opaque numberSent : Nat → Rat → Word32

end Config

end Sys2Proof
end

