-- ==== Sys2Proof/Syntax.lean ====
section
/-!
DEFINITION. The Message record, the operand forms, the requests on `cmd_in` and the 23 operations: one constructor of
`Instr` for each row of spec/opcode_table.json (30_encoding.md R103, R118 to R120).
-/
namespace Sys2Proof

/-- Message kinds (30_encoding.md R105). -/
inductive Kind where
  | text
  | file
  | ack
  | ping
  deriving DecidableEq, Repr

/-- The number a kind has where a number is needed: Text 0, File 1, Ack 2, Ping 3 (30_encoding.md R105). -/
def Kind.number : Kind → Nat
  | .text => 0
  | .file => 1
  | .ack => 2
  | .ping => 3

/-- The Message header (30_encoding.md R103). -/
structure Header where
  version : Byte
  kind : Kind
  sequenceNumber : Word32
  timestamp : Word64
  payloadLength : BitVec 16
  deriving DecidableEq, Repr

/-- A Message: header, opaque payload, checksum (30_encoding.md R103). -/
structure Message where
  header : Header
  payload : List Byte
  checksum : Word32
  deriving DecidableEq, Repr

namespace Config

/-! Free values of the Message type: the parameters `SER`, `SER_HDR`, `DESER` of 00_scope.md R10 in an instance that is not the
spec's. Each is an opaque constant without a body; a statement that needs the laws of 30_encoding.md R112 assumes them (log 10). -/

/-- FREE VALUE (30_encoding.md R112; log 10): `SER` of instance `n`. -/
opaque otherSer : Nat → Message → List Byte

/-- FREE VALUE (30_encoding.md R112; log 10): `SER_HDR` of instance `n`. -/
opaque otherSerHeader : Nat → Header → List Byte

/-- FREE VALUE (30_encoding.md R112; log 10): `DESER` of instance `n`. -/
opaque otherDeser : Nat → List Byte → Option Message

end Config

/-- One operation with its operands (30_encoding.md R118, R120). -/
inductive Instr where
  /-- `CORE.RESET` -/
  | coreReset
  /-- `CFG.LOAD cfg` -/
  | cfgLoad (cfg : ModConfig)
  /-- `CSR.READ n` -/
  | csrRead (n : Byte)
  /-- `CRC.CALC data` -/
  | crcCalc (data : List Byte)
  /-- `MSG.CHECKSUM header, payload` -/
  | msgChecksum (header : Header) (payload : List Byte)
  /-- `MSG.VERIFY msg` -/
  | msgVerify (msg : Message)
  /-- `MSG.NEW.TEXT seq_sel, seq, payload` -/
  | msgNewText (seqSel : Bool) (seq : Word32) (payload : List Byte)
  /-- `MSG.NEW.FILE seq_sel, seq, payload` -/
  | msgNewFile (seqSel : Bool) (seq : Word32) (payload : List Byte)
  /-- `MSG.NEW.ACK seq_sel, seq, payload` -/
  | msgNewAck (seqSel : Bool) (seq : Word32) (payload : List Byte)
  /-- `MSG.NEW.PING seq_sel, seq, payload` -/
  | msgNewPing (seqSel : Bool) (seq : Word32) (payload : List Byte)
  /-- `FENC.SER msg` -/
  | fencSer (msg : Message)
  /-- `FENC.WRAP p` -/
  | fencWrap (p : List Byte)
  /-- `FENC.ENCODE msg` -/
  | fencEncode (msg : Message)
  /-- `MOD.ENCODE bytes` -/
  | modEncode (bytes : List Byte)
  /-- `TX.SEND msg` -/
  | txSend (msg : Message)
  /-- `DEM.INIT` -/
  | demInit
  /-- `DET.CLASSIFY w` -/
  | detClassify (w : List Sample)
  /-- `DEM.DECODE buf` -/
  | demDecode (buf : List Sample)
  /-- `DEM.PUSH chunk` -/
  | demPush (chunk : List Sample)
  /-- `FDEC.INIT` -/
  | fdecInit
  /-- `FDEC.FEED chunk` -/
  | fdecFeed (chunk : List Byte)
  /-- `FDEC.DESER text` -/
  | fdecDeser (text : List Byte)
  /-- `RX.RECV count` -/
  | rxRecv (count : Nat)
  deriving DecidableEq, Repr

/-- One typed operand on `cmd_in` (30_encoding.md R120: "Operands follow the code on `cmd_in` as typed values, not as
packed bits"). -/
inductive Operand where
  | bytes (b : List Byte)
  | samples (w : List Sample)
  | message (m : Message)
  | header (h : Header)
  | modConfig (c : ModConfig)
  | register (n : Byte)
  | seqSel (b : Bool)
  | seq (n : Word32)
  | count (n : Nat)
  deriving DecidableEq, Repr

/-- One item of `cmd_in`: an operation code with its operands (20_memory.md R62). -/
structure Request where
  code : Byte
  operands : List Operand
  deriving DecidableEq, Repr

end Sys2Proof
end

