-- ==== Sys2Proof/WellFormed.lean ====
section
/-!
DEFINITION. What an operand form admits (30_encoding.md R120). The only bound on a form is the Message's: "the record of
rule R103; `payload` any length `0 .. 65535`". A `MSG.NEW.*` payload and a `DET.CLASSIFY` window of the wrong length are
well-formed requests that the operation itself answers with `BadOperand` (60_exceptions.md R306).
-/
namespace Sys2Proof

/-- A Message operand: the payload has at most 65535 bytes (30_encoding.md R120). -/
def Message.wellFormed (m : Message) : Bool := decide (m.payload.length ≤ Config.maxMessagePayload)

/-- An instruction whose operands the forms of 30_encoding.md R120 admit. -/
def Instr.wellFormed : Instr → Bool
  | .coreReset => true
  | .cfgLoad _ => true
  | .csrRead _ => true
  | .crcCalc _ => true
  | .msgChecksum _ _ => true
  | .msgVerify m => m.wellFormed
  | .msgNewText _ _ _ => true
  | .msgNewFile _ _ _ => true
  | .msgNewAck _ _ _ => true
  | .msgNewPing _ _ _ => true
  | .fencSer m => m.wellFormed
  | .fencWrap _ => true
  | .fencEncode m => m.wellFormed
  | .modEncode _ => true
  | .txSend m => m.wellFormed
  | .demInit => true
  | .detClassify _ => true
  | .demDecode _ => true
  | .demPush _ => true
  | .fdecInit => true
  | .fdecFeed _ => true
  | .fdecDeser _ => true
  | .rxRecv _ => true

end Sys2Proof
end

