-- ==== Sys2Proof/Decode.lean ====
section
/-!
DEFINITION. Decoding a request of `cmd_in` (operation code and typed operands) into an `Instr`, total, rejecting by name,
and the encoder (30_encoding.md R116, R119, R120; 60_exceptions.md R306).
-/
namespace Sys2Proof

/-- The 23 operations without their operands. -/
inductive Opcode where
  | coreReset | cfgLoad | csrRead
  | crcCalc | msgChecksum | msgVerify | msgNewText | msgNewFile | msgNewAck | msgNewPing
  | fencSer | fencWrap | fencEncode
  | modEncode | txSend
  | demInit | detClassify | demDecode | demPush
  | fdecInit | fdecFeed | fdecDeser
  | rxRecv
  deriving DecidableEq, Repr

/-- Why a request is not an operation: the code is none of the 23 (R116), or the operands of the
operation `op` are not of its form (60_exceptions.md R306). Each names the status the request is answered with. -/
inductive DecodeError where
  | illegalOp (code : Byte)
  | badOperand (op : Opcode)
  deriving DecidableEq, Repr

/-- The operation codes of 30_encoding.md R119, `op[7:4]` the unit group and `op[3:0]` the function. -/
def opcodeTable : List (Byte × Opcode) :=
  [(0x00#8, .coreReset), (0x01#8, .cfgLoad), (0x02#8, .csrRead),
   (0x10#8, .crcCalc), (0x11#8, .msgChecksum), (0x12#8, .msgVerify), (0x13#8, .msgNewText),
   (0x14#8, .msgNewFile), (0x15#8, .msgNewAck), (0x16#8, .msgNewPing),
   (0x20#8, .fencSer), (0x21#8, .fencWrap), (0x22#8, .fencEncode),
   (0x30#8, .modEncode), (0x31#8, .txSend),
   (0x40#8, .demInit), (0x41#8, .detClassify), (0x42#8, .demDecode), (0x43#8, .demPush),
   (0x50#8, .fdecInit), (0x51#8, .fdecFeed), (0x52#8, .fdecDeser),
   (0x60#8, .rxRecv)]

/-- The operation a code names, if any (30_encoding.md R119). -/
def decodeOpcode (code : Byte) : Option Opcode :=
  (opcodeTable.find? (fun row => row.1 == code)).map (fun row => row.2)

/-- The operands of an operation, read in the order of spec/opcode_table.json; `none` when they are not of its form. `CORE.RESET` is
never refused (60_exceptions.md R311), so it takes no notice of operands (log 15). -/
def decodeOperands : Opcode → List Operand → Option Instr
  | .coreReset, _ => some .coreReset
  | .cfgLoad, ops => match ops with | [.modConfig c] => some (.cfgLoad c) | _ => none
  | .csrRead, ops => match ops with | [.register n] => some (.csrRead n) | _ => none
  | .crcCalc, ops => match ops with | [.bytes b] => some (.crcCalc b) | _ => none
  | .msgChecksum, ops => match ops with | [.header h, .bytes b] => some (.msgChecksum h b) | _ => none
  | .msgVerify, ops => match ops with | [.message m] => some (.msgVerify m) | _ => none
  | .msgNewText, ops => match ops with | [.seqSel x, .seq n, .bytes b] => some (.msgNewText x n b) | _ => none
  | .msgNewFile, ops => match ops with | [.seqSel x, .seq n, .bytes b] => some (.msgNewFile x n b) | _ => none
  | .msgNewAck, ops => match ops with | [.seqSel x, .seq n, .bytes b] => some (.msgNewAck x n b) | _ => none
  | .msgNewPing, ops => match ops with | [.seqSel x, .seq n, .bytes b] => some (.msgNewPing x n b) | _ => none
  | .fencSer, ops => match ops with | [.message m] => some (.fencSer m) | _ => none
  | .fencWrap, ops => match ops with | [.bytes b] => some (.fencWrap b) | _ => none
  | .fencEncode, ops => match ops with | [.message m] => some (.fencEncode m) | _ => none
  | .modEncode, ops => match ops with | [.bytes b] => some (.modEncode b) | _ => none
  | .txSend, ops => match ops with | [.message m] => some (.txSend m) | _ => none
  | .demInit, ops => match ops with | [] => some .demInit | _ => none
  | .detClassify, ops => match ops with | [.samples w] => some (.detClassify w) | _ => none
  | .demDecode, ops => match ops with | [.samples w] => some (.demDecode w) | _ => none
  | .demPush, ops => match ops with | [.samples w] => some (.demPush w) | _ => none
  | .fdecInit, ops => match ops with | [] => some .fdecInit | _ => none
  | .fdecFeed, ops => match ops with | [.bytes b] => some (.fdecFeed b) | _ => none
  | .fdecDeser, ops => match ops with | [.bytes b] => some (.fdecDeser b) | _ => none
  | .rxRecv, ops => match ops with | [.count n] => some (.rxRecv n) | _ => none

/-- Decoding a request: an illegal code is rejected as `illegalOp` before any operand is looked at (60_exceptions.md R311),
operands that are not of the operation's form as `badOperand`. -/
def decode (r : Request) : Except DecodeError Instr :=
  match decodeOpcode r.code with
  | none => .error (.illegalOp r.code)
  | some op =>
    match decodeOperands op r.operands with
    | none => .error (.badOperand op)
    | some i => if i.wellFormed then .ok i else .error (.badOperand op)

/-- The operation of an instruction. -/
def opcodeOf : Instr → Opcode
  | .coreReset => .coreReset
  | .cfgLoad _ => .cfgLoad
  | .csrRead _ => .csrRead
  | .crcCalc _ => .crcCalc
  | .msgChecksum _ _ => .msgChecksum
  | .msgVerify _ => .msgVerify
  | .msgNewText _ _ _ => .msgNewText
  | .msgNewFile _ _ _ => .msgNewFile
  | .msgNewAck _ _ _ => .msgNewAck
  | .msgNewPing _ _ _ => .msgNewPing
  | .fencSer _ => .fencSer
  | .fencWrap _ => .fencWrap
  | .fencEncode _ => .fencEncode
  | .modEncode _ => .modEncode
  | .txSend _ => .txSend
  | .demInit => .demInit
  | .detClassify _ => .detClassify
  | .demDecode _ => .demDecode
  | .demPush _ => .demPush
  | .fdecInit => .fdecInit
  | .fdecFeed _ => .fdecFeed
  | .fdecDeser _ => .fdecDeser
  | .rxRecv _ => .rxRecv

/-- The code of an operation (30_encoding.md R119), written out a second time so that the round trip says something. -/
def encodeOpcode : Opcode → Byte
  | .coreReset => 0x00#8
  | .cfgLoad => 0x01#8
  | .csrRead => 0x02#8
  | .crcCalc => 0x10#8
  | .msgChecksum => 0x11#8
  | .msgVerify => 0x12#8
  | .msgNewText => 0x13#8
  | .msgNewFile => 0x14#8
  | .msgNewAck => 0x15#8
  | .msgNewPing => 0x16#8
  | .fencSer => 0x20#8
  | .fencWrap => 0x21#8
  | .fencEncode => 0x22#8
  | .modEncode => 0x30#8
  | .txSend => 0x31#8
  | .demInit => 0x40#8
  | .detClassify => 0x41#8
  | .demDecode => 0x42#8
  | .demPush => 0x43#8
  | .fdecInit => 0x50#8
  | .fdecFeed => 0x51#8
  | .fdecDeser => 0x52#8
  | .rxRecv => 0x60#8

/-- The operands of an instruction in the order of spec/opcode_table.json. -/
def encodeOperands : Instr → List Operand
  | .coreReset => []
  | .cfgLoad c => [.modConfig c]
  | .csrRead n => [.register n]
  | .crcCalc b => [.bytes b]
  | .msgChecksum h b => [.header h, .bytes b]
  | .msgVerify m => [.message m]
  | .msgNewText x n b => [.seqSel x, .seq n, .bytes b]
  | .msgNewFile x n b => [.seqSel x, .seq n, .bytes b]
  | .msgNewAck x n b => [.seqSel x, .seq n, .bytes b]
  | .msgNewPing x n b => [.seqSel x, .seq n, .bytes b]
  | .fencSer m => [.message m]
  | .fencWrap b => [.bytes b]
  | .fencEncode m => [.message m]
  | .modEncode b => [.bytes b]
  | .txSend m => [.message m]
  | .demInit => []
  | .detClassify w => [.samples w]
  | .demDecode w => [.samples w]
  | .demPush w => [.samples w]
  | .fdecInit => []
  | .fdecFeed b => [.bytes b]
  | .fdecDeser b => [.bytes b]
  | .rxRecv n => [.count n]

/-- The request that asks for an instruction: its code, then its operands as typed values (30_encoding.md R120). -/
def encode (i : Instr) : Request := { code := encodeOpcode (opcodeOf i), operands := encodeOperands i }

/-- The header record with every field zero (kind number 0 is Text, 30_encoding.md R105). -/
def zeroHeader : Header := { version := 0#8, kind := .text, sequenceNumber := 0#32, timestamp := 0#64, payloadLength := 0#16 }

/-- The Message record with every field zero and an empty payload. -/
def zeroMessage : Message := { header := zeroHeader, payload := [], checksum := 0#32 }

/-- The operands of an operation with every one of them zero: empty strings and buffers, number 0, all fields 0. The code
byte is all the bits the table gives an operation; this is what "every bit above them is 0" means for typed operands
(log 15). -/
def zeroOperands : Opcode → List Operand
  | .coreReset => []
  | .cfgLoad => [.modConfig { sampleRate := 0, freq0 := 0, freq1 := 0, symbolDuration := 0, rampDuration := 0, amplitude := 0 }]
  | .csrRead => [.register 0#8]
  | .crcCalc => [.bytes []]
  | .msgChecksum => [.header zeroHeader, .bytes []]
  | .msgVerify => [.message zeroMessage]
  | .msgNewText => [.seqSel false, .seq 0#32, .bytes []]
  | .msgNewFile => [.seqSel false, .seq 0#32, .bytes []]
  | .msgNewAck => [.seqSel false, .seq 0#32, .bytes []]
  | .msgNewPing => [.seqSel false, .seq 0#32, .bytes []]
  | .fencSer => [.message zeroMessage]
  | .fencWrap => [.bytes []]
  | .fencEncode => [.message zeroMessage]
  | .modEncode => [.bytes []]
  | .txSend => [.message zeroMessage]
  | .demInit => []
  | .detClassify => [.samples []]
  | .demDecode => [.samples []]
  | .demPush => [.samples []]
  | .fdecInit => []
  | .fdecFeed => [.bytes []]
  | .fdecDeser => [.bytes []]
  | .rxRecv => [.count 0]

/-- The request whose code is the low 8 bits of `w`, all operands zero. -/
def requestOfWord (w : Nat) : Request :=
  { code := BitVec.ofNat 8 w
    operands := match decodeOpcode (BitVec.ofNat 8 w) with
      | none => []
      | some op => zeroOperands op }

/-- The instruction the decoder reads from the code `w` with all operands zero. A row has 8 bits (spec/opcode_table.json):
any other width, or a value that needs more bits, is no row's. -/
def decodeTableWord (nbits w : Nat) : Option Instr :=
  if nbits = 8 ∧ w < 256 then
    match decode (requestOfWord w) with
    | .ok i => some i
    | .error _ => none
  else none

end Sys2Proof
end

