-- ==== Sys2Proof/Machine/State.lean ====
section
/-!
DEFINITION. The state of the core (10_state.md, 20_memory.md R62, 70_reset_and_hazards.md R331), grouped by unit, as plain
data; the statuses, results and events that stand on the output ports; the reset values. INVENTORY.md lists every field
with the rule that names it.
-/
namespace Sys2Proof.Machine

/-- The five state tags of the frame decoder (10_state.md R27). -/
inductive FdecTag where
  /-- `WP`, WaitingForPreamble -/
  | wp
  /-- `WS`, WaitingForStart -/
  | ws
  /-- `RL`, ReadingLength -/
  | rl
  /-- `RM`, ReadingMessage -/
  | rm
  /-- `WE`, WaitingForEnd -/
  | we
  deriving DecidableEq, Repr

/-- The five subcauses of FrameCorrupt (60_exceptions.md R302). -/
inductive Subcause where
  | start
  | length
  | endDelim
  | deser
  | crc
  deriving DecidableEq, Repr

/-- The events of the frame decoder (60_exceptions.md R302). -/
inductive Event where
  | frameCorrupt (sub : Subcause)
  | bufferOverflow
  | preambleFound
  | frameOk
  deriving DecidableEq, Repr

/-- The eleven configuration checks (40_config.md R131, R132). -/
inductive ConfigCheck where
  | badSampleRate
  | badFrequency
  | equalFrequencies
  | badSymbolDuration
  | badRampDuration
  | badAmplitude
  | zeroSymbol
  | rampTooLong
  | fftTooLarge
  | binAboveNyquist
  | binsTooClose
  deriving DecidableEq, Repr

/-- How an operation ends (60_exceptions.md R300). `BufferOverflow` is never a status. -/
inductive Status where
  | ok
  | configError (check : ConfigCheck)
  /-- the 32-bit cause: the offending size in bytes -/
  | payloadTooLarge (size : Word32)
  | frameCorrupt (sub : Subcause)
  | busy
  | notConfigured
  | illegalOp (code : Byte)
  | badOperand
  deriving DecidableEq, Repr

/-- The result value of an operation, if it has one (30_encoding.md R118, column "result"). -/
inductive Value where
  | none
  | bit (b : Bool)
  | word (w : Word32)
  /-- a rational-valued register under the default `CFG_NUM_FORMAT` (10_state.md R30) -/
  | rational (q : Rat)
  | bytes (b : List Byte)
  | message (m : Message)
  | messages (ms : List Message)
  | count (n : Nat)
  deriving DecidableEq, Repr

/-- One item of `rsp_out` (20_memory.md R62). -/
structure Response where
  status : Status
  value : Value
  deriving DecidableEq, Repr

/-- One item of `pcm_out` (20_memory.md R62). -/
structure PcmItem where
  sample : Sample
  last : Bool
  deriving DecidableEq, Repr

/-- The configuration unit (10_state.md R22, R23, R29, R33 (b)). -/
structure CfgRegs where
  /-- the six configuration registers -/
  conf : ModConfig
  sps : Nat
  rampN : Nat
  fftN : Nat
  bin0 : Nat
  bin1 : Nat
  /-- hidden `fft_plan`: the FFT size the plan is built for -/
  fftPlan : Nat
  cfgValid : Bool
  demValid : Bool
  deriving DecidableEq, Repr

/-- The modulator (10_state.md R24) with the internal stream `tx_bytes` (20_memory.md R62). -/
structure ModRegs where
  active : Bool
  byte : Byte
  isLast : Bool
  firstSym : Bool
  bitIdx : Nat
  sampIdx : Nat
  /-- "a byte is held" (41_modulator.md R153; log 18) -/
  held : Bool
  tx : List (Byte × Bool)
  /-- the answers of requests that were refused while the modulator was active: they follow the answer of the call that was
  running, because `rsp_out` is "in request order per unit" (20_memory.md R62; log 37) -/
  late : List Response
  deriving DecidableEq, Repr

/-- Hidden `fft_buf` (10_state.md R33 (a)): its content between classifications is not observable; it is held as the number
of the draw that its content is (log 6). -/
structure FftBuf where
  draw : Nat
  deriving DecidableEq, Repr

/-- The DEM operation in progress, if any, with what is left of it (40_config.md R134, 70_reset_and_hazards.md R332). -/
inductive DemOp where
  /-- `DEM.PUSH`: samples not yet consumed, bytes completed so far -/
  | push (rest : List Sample) (out : List Byte)
  /-- `DEM.DECODE`: samples not yet consumed, bytes completed so far -/
  | decode (rest : List Sample) (out : List Byte)
  /-- `DET.CLASSIFY`: the window -/
  | classify (w : List Sample)
  /-- `RX.RECV`: samples still to take from `pcm_in`, Messages sent so far -/
  | recv (left : Nat) (sent : Nat)
  deriving DecidableEq, Repr

/-- The demodulator (10_state.md R25, R33 (a)). -/
structure DemRegs where
  /-- `rx_win`, `sps` elements (20_memory.md R61); those that are unspecified hold free values (log 5) -/
  rxWin : List Sample
  rxFill : Nat
  rxShift : Byte
  rxBitcnt : Nat
  fftBuf : FftBuf
  /-- the model's own: number of the next draw of the detector, of `fft_buf` or of `rx_win` (log 14) -/
  draws : Nat
  op : Option DemOp
  deriving DecidableEq, Repr

/-- The `FDEC.FEED` in progress: bytes not yet consumed, Messages emitted so far (70_reset_and_hazards.md R332). -/
structure FeedOp where
  rest : List Byte
  out : List Message
  deriving DecidableEq, Repr

/-- The frame decoder (10_state.md R27). -/
structure FdecRegs where
  tag : FdecTag
  buf : List Byte
  len : Nat
  pay : List Byte
  op : Option FeedOp
  deriving DecidableEq, Repr

/-- One entry of the schedule: which agent moves next (log 1). The first four give an agent of the core one atomic step, the
last three are steps of the outside. -/
inductive Turn where
  /-- the core takes the next request from `cmd_in` -/
  | serve
  /-- one atomic step of MOD (41_modulator.md R152 or R153 with R156) -/
  | mod
  /-- one atomic step of DEM (42_demodulator.md R183 to R186, 45_composition.md R283) -/
  | dem
  /-- one atomic step of FDEC (44_frame_decoder.md R241) -/
  | fdec
  /-- the host puts a request on `cmd_in` -/
  | request (r : Request)
  /-- the sample source puts a sample on `pcm_in` -/
  | sample (x : Sample)
  /-- the host changes the level on `time_in` -/
  | time (t : Word64)
  deriving DecidableEq, Repr

/-- The state of the core. -/
structure State where
  /-- the implementation parameters (00_scope.md R10), written by no step (log 2) -/
  params : Params
  cfg : CfgRegs
  mod : ModRegs
  dem : DemRegs
  /-- `seq_ctr` (10_state.md R26) -/
  seqCtr : Word32
  fdec : FdecRegs
  cmdIn : List Request
  rspOut : List Response
  pcmOut : List PcmItem
  pcmIn : List Sample
  timeIn : Word64
  msgOut : List Message
  dbgOut : List Event
  /-- internal stream `rx_bytes` (20_memory.md R62) -/
  rxBytes : List Byte
  /-- the model's own: number of the next draw of a register read (log 7) -/
  draws : Nat
  /-- the model's own: the turns still to come (log 1) -/
  sched : List Turn
  deriving DecidableEq, Repr

/-- Reasons a step could stop with a fault: none. Every error of this core is a status on `rsp_out` or a silent event, after
which it goes on (60_exceptions.md R300, R302, R312; log 30). The type has no constructor, so nobody raises one. -/
inductive Fault where
  deriving DecidableEq, Repr

/-- Reasons a step can be refused by the model. -/
inductive Refusal where
  /-- Raised only by an arm of `exec` for an operation without a meaning; no arm raises it (safe). -/
  | notModelled (mnemonic : String)
  deriving DecidableEq, Repr

/-! Reset values (70_reset_and_hazards.md R331). -/

/-- Reset of the configuration unit: `cfg_valid = dem_valid = 0`; the registers, unspecified by the spec, are 0 (DESIGN
CHOICE, unsafe, logs 3 and 6). -/
def CfgRegs.reset : CfgRegs :=
  { conf := { sampleRate := 0, freq0 := 0, freq1 := 0, symbolDuration := 0, rampDuration := 0, amplitude := 0 }
    sps := 0, rampN := 0, fftN := 0, bin0 := 0, bin1 := 0, fftPlan := 0, cfgValid := false, demValid := false }

/-- Reset of the modulator: `mod_active`, `mod_bit_idx`, `mod_samp_idx` 0 and `tx_bytes` emptied; `mod_byte`, `mod_is_last`,
`mod_first_sym`, unspecified by the spec, are 0 (DESIGN CHOICE, unsafe, log 4). -/
def ModRegs.reset : ModRegs :=
  { active := false, byte := 0#8, isLast := false, firstSym := false, bitIdx := 0, sampIdx := 0, held := false, tx := [], late := [] }

/-- Power-on reset of the demodulator: counters 0, `rx_win` with the `sps` = 0 elements of an unconfigured core,
`fft_buf` draw 0 (logs 5, 6, 14). -/
def DemRegs.reset : DemRegs :=
  { rxWin := [], rxFill := 0, rxShift := 0#8, rxBitcnt := 0, fftBuf := { draw := 0 }, draws := 1, op := none }

/-- Reset of the frame decoder: "Created empty", "start → WaitingForPreamble". -/
def FdecRegs.reset : FdecRegs :=
  { tag := .wp, buf := [], len := 0, pay := [], op := none }

/-- The core right after power-on reset, with the default parameters (00_scope.md R10) and nothing on any port. -/
def State.reset : State :=
  { params := Params.defaults
    cfg := CfgRegs.reset
    mod := ModRegs.reset
    dem := DemRegs.reset
    seqCtr := 0#32
    fdec := FdecRegs.reset
    cmdIn := []
    rspOut := []
    pcmOut := []
    pcmIn := []
    timeIn := 0#64
    msgOut := []
    dbgOut := []
    rxBytes := []
    draws := 0
    sched := [] }

end Sys2Proof.Machine
end

