-- ==== Sys2Proof/Machine/Operands.lean ====
section
/-!
DEFINITION. Reading operands: `round` (00_scope.md R12), binary32 values as exact numbers and `f32` (R13), the length field
(20_memory.md R66), decimal numerals (30_encoding.md R107), bits of bytes (R67). IEEE 754's binary32 layout is PRESUMED (log 29):
the spec names the format and not its bits.
-/
namespace Sys2Proof.Machine

/-- `round(x)` of 00_scope.md R12 for a non-negative `x`: the nearest integer, a tie to the larger one. -/
def roundHalfUp (x : Rat) : Nat := (x + 1 / 2).floor.toNat

/-- "the smallest power of two ≥ `n`" (00_scope.md R8). -/
def pow2AtLeast (n : Nat) : Nat := if n ≤ 1 then 1 else 2 ^ (Nat.log2 (n - 1) + 1)

/-- `q` is an integer (40_config.md R131, check 1). -/
def isInteger (q : Rat) : Bool := q.den == 1

/-! Binary32 values. -/

/-- The biased exponent field, bits 30:23. -/
def f32Exponent (x : Sample) : Nat := (x.extractLsb' 23 8).toNat

/-- The fraction field, bits 22:0. -/
def f32Fraction (x : Sample) : Nat := (x.extractLsb' 0 23).toNat

/-- The value is a number: neither an infinity nor a NaN (42_demodulator.md R179). -/
def f32Finite (x : Sample) : Bool := f32Exponent x != 255

/-- The magnitude of a finite value in units of `2^-149`, the smallest denormal. -/
def f32Magnitude (x : Sample) : Nat :=
  if f32Exponent x = 0 then f32Fraction x else (2 ^ 23 + f32Fraction x) * 2 ^ (f32Exponent x - 1)

/-- The exact value of a finite sample in units of `2^-149`, an integer. -/
def f32Scaled (x : Sample) : Int := if x.msb then -(f32Magnitude x : Int) else (f32Magnitude x : Int)

/-- The exact value of a finite sample. -/
def f32Value (x : Sample) : Rat := (f32Scaled x : Rat) / (2 ^ 149 : Nat)

/-- `n / d` rounded to the nearest natural number, a tie to the even one. -/
def roundEven (n d : Nat) : Nat :=
  let q := n / d
  let r := n % d
  if 2 * r < d then q else if d < 2 * r then q + 1 else if q % 2 = 0 then q else q + 1

/-- The binary32 pattern, without sign, of a magnitude `n / d` in units of `2^-149`, rounded to nearest. The pattern of the value
`m * 2^e` with `2^23 ≤ m < 2^24` is `e * 2^23 + m`, and a carry out of the fraction moves into the exponent by itself. -/
def f32Pattern (n d : Nat) : Nat :=
  let e := Nat.log2 (n / d) - 23
  Nat.min (e * 2 ^ 23 + roundEven n (d * 2 ^ e)) 0x7F800000

/-- `f32(x)`: the binary32 value nearest to `x`, ties to even (00_scope.md R13); a magnitude too large becomes an infinity. -/
def f32Nearest (x : Rat) : Sample :=
  let mag := BitVec.ofNat 32 (f32Pattern (x.num.natAbs * 2 ^ 149) x.den)
  if x < 0 then 0x80000000#32 ||| mag else mag

/-! Bytes. -/

/-- Bit `j` of a byte string in the order of 20_memory.md R67: bit 7 of each byte first. -/
def bitOfBytes (bytes : List Byte) (j : Nat) : Bool := (bytes.getD (j / 8) 0#8).getLsbD (7 - j % 8)

/-- The length field of two bytes, big-endian (20_memory.md R66). -/
def lengthOfBytes (first second : Byte) : Nat := 256 * first.toNat + second.toNat

/-- The two bytes `L[15:8] L[7:0]` of a length (30_encoding.md R91). -/
def bytesOfLength (l : Nat) : List Byte := [BitVec.ofNat 8 (l / 256), BitVec.ofNat 8 (l % 256)]

/-- The bytes of a list of ASCII characters. -/
def ascii (cs : List Char) : List Byte := cs.map (fun c => BitVec.ofNat 8 c.toNat)

/-- The last `digits` decimal digits of `n` without leading zeros (one digit at least when `digits` is positive). -/
def decimalDigits : Nat → Nat → List Byte
  | 0, _ => []
  | k + 1, n =>
    if n < 10 then [BitVec.ofNat 8 (0x30 + n)] else decimalDigits k (n / 10) ++ [BitVec.ofNat 8 (0x30 + n % 10)]

/-- `dec(n)`: the decimal numeral of `n`, no leading zero, `0` for zero (30_encoding.md R107). -/
def dec (n : Nat) : List Byte := decimalDigits (Nat.log2 n + 1) n

end Sys2Proof.Machine
end

