-- ==== Sys2Proof/Machine/Flags.lean ====
section
/-!
DEFINITION. The flags and what is computed for them: the codes of statuses and events (60_exceptions.md R300, R302), the
configuration checks that decide `cfg_valid` and `dem_valid` (40_config.md R131, R132), the `STATUS` word (10_state.md R30).
-/
namespace Sys2Proof.Machine

/-- The number of a check, the cause code of `ConfigError` (40_config.md R131, R132). -/
def ConfigCheck.number : ConfigCheck → Nat
  | .badSampleRate => 1
  | .badFrequency => 2
  | .equalFrequencies => 3
  | .badSymbolDuration => 4
  | .badRampDuration => 5
  | .badAmplitude => 6
  | .zeroSymbol => 7
  | .rampTooLong => 8
  | .fftTooLarge => 9
  | .binAboveNyquist => 10
  | .binsTooClose => 11

/-- The subcause number of FrameCorrupt (60_exceptions.md R302). -/
def Subcause.number : Subcause → Nat
  | .start => 0
  | .length => 1
  | .endDelim => 2
  | .deser => 3
  | .crc => 4

/-- The event codes of 60_exceptions.md R302. -/
def Event.code : Event → Byte
  | .frameCorrupt sub => BitVec.ofNat 8 (0x10 + sub.number)
  | .bufferOverflow => 0x18#8
  | .preambleFound => 0x20#8
  | .frameOk => 0x21#8

/-- The 8 bits of kind of a status (60_exceptions.md R300). -/
def Status.kind : Status → Byte
  | .ok => 0x00#8
  | .configError _ => 0x01#8
  | .payloadTooLarge _ => 0x02#8
  | .frameCorrupt _ => 0x03#8
  | .busy => 0x05#8
  | .notConfigured => 0x06#8
  | .illegalOp _ => 0x07#8
  | .badOperand => 0x08#8

/-- The 32-bit cause value of a status (60_exceptions.md R300). -/
def Status.cause : Status → Word32
  | .ok => 0#32
  | .configError check => BitVec.ofNat 32 check.number
  | .payloadTooLarge size => size
  | .frameCorrupt sub => BitVec.ofNat 32 sub.number
  | .busy => 0#32
  | .notConfigured => 0#32
  | .illegalOp code => code.setWidth 32
  | .badOperand => 0#32

/-- The code of `fdec_state` in the `STATUS` word (10_state.md R30). -/
def FdecTag.code : FdecTag → BitVec 3
  | .wp => 0#3
  | .ws => 1#3
  | .rl => 2#3
  | .rm => 3#3
  | .we => 4#3

/-- The `STATUS` word (10_state.md R30): bit 0 `cfg_valid`, bit 1 `dem_valid`, bit 2 `mod_active`, bits 5:3 `fdec_state`, bits 8:6
`rx_bitcnt`, bits 31:9 zero. -/
def statusWord (cfgValid demValid modActive : Bool) (tag : FdecTag) (bitcnt : Nat) : Word32 :=
  0#23 ++ BitVec.ofNat 3 bitcnt ++ tag.code ++ BitVec.ofBool modActive ++ BitVec.ofBool demValid ++ BitVec.ofBool cfgValid

/-- Checks 1 to 6 of 40_config.md R131, in order: the first that fails. -/
def baseFailure (c : ModConfig) : Option ConfigCheck :=
  if ¬ (isInteger c.sampleRate = true ∧ 0 < c.sampleRate) then some .badSampleRate
  else if ¬ ((0 < c.freq0 ∧ c.freq0 < c.sampleRate / 2) ∧ (0 < c.freq1 ∧ c.freq1 < c.sampleRate / 2)) then some .badFrequency
  else if c.freq0 = c.freq1 then some .equalFrequencies
  else if ¬ 0 < c.symbolDuration then some .badSymbolDuration
  else if ¬ (0 ≤ c.rampDuration ∧ c.rampDuration ≤ c.symbolDuration / 2) then some .badRampDuration
  else if ¬ (0 < c.amplitude ∧ c.amplitude ≤ 1) then some .badAmplitude
  else none

/-- Checks 7 and 8 of 40_config.md R131, in order: the first that fails. -/
def derivedFailure (sps rampN : Nat) : Option ConfigCheck :=
  if ¬ 1 ≤ sps then some .zeroSymbol
  else if ¬ 2 * rampN ≤ sps then some .rampTooLong
  else none

/-- Checks 9 to 11 of 40_config.md R132, in order: the first that fails. `bin ≤ N / 2` is written `2 * bin ≤ N`. -/
def demodFailure (nMax : Option Nat) (fftN bin0 bin1 : Nat) : Option ConfigCheck :=
  if nMax.any (fun m => m < fftN) then some .fftTooLarge
  else if ¬ (2 * bin0 ≤ fftN ∧ 2 * bin1 ≤ fftN) then some .binAboveNyquist
  else if ¬ (bin0 + 6 < bin1 ∨ bin1 + 6 < bin0) then some .binsTooClose
  else none

end Sys2Proof.Machine
end

