-- ==== Sys2Proof/Machine/Ops.lean ====
section
/-!
DEFINITION. The named operations over ports, registers and buffers that the meanings share: answering a request, refusing
one (this hardware's exception entry, 60_exceptions.md R312), events, buffer primitives (00_scope.md R13), the initialising
operations, and which requests wait for a busy unit.

"TAKING AN EXCEPTION" here is `State.refuse`: one status goes out on `rsp_out`, nothing is saved, no mode changes, control
goes nowhere, and no register changes. "RETURNING" from one is nothing at all: "There is no return operation and nothing to
restore" (R313).
-/
namespace Sys2Proof.Machine

/-! Answers. -/

/-- Put one status with a result value on `rsp_out`, after every item sent earlier (20_memory.md R62). -/
def State.respond (s : State) (st : Status) (v : Value) : State :=
  { s with rspOut := s.rspOut ++ [{ status := st, value := v }] }

/-- End an operation with status `Ok`. -/
def State.ok (s : State) (v : Value) : State := s.respond .ok v

/-- Refuse or end a request with an error status: exception entry (60_exceptions.md R312). -/
def State.refuse (s : State) (st : Status) : State := s.respond st .none

/-- Refuse a request to MOD: at once, or, while a call is in progress, after that call's answer, since the answers of one unit come
in request order (20_memory.md R62; log 37). No register changes either way (60_exceptions.md R309, R312). -/
def State.refuseMod (s : State) (st : Status) : State :=
  if s.mod.active then { s with mod := { s.mod with late := s.mod.late ++ [{ status := st, value := .none }] } } else s.refuse st

/-- Refuse a request to the unit of an operation. -/
def State.refuseFor (s : State) (op : Opcode) (st : Status) : State :=
  if op = .modEncode ∨ op = .txSend then s.refuseMod st else s.refuse st

/-- The answers that waited for a modulator call to end go out, in their order (20_memory.md R62; log 37). -/
def State.sendLate (s : State) : State := { s with rspOut := s.rspOut ++ s.mod.late, mod := { s.mod with late := [] } }

/-- A natural number as a 32-bit value. What stands there for one that does not fit the spec does not state: a free value
that depends on the number alone, so that a pure operation gives "the same result for the same operands every time"
(43_frame_encoder.md R219; log 8). -/
def word32OfNat (n : Nat) : Word32 := if n < 2 ^ 32 then BitVec.ofNat 32 n else Config.wideWord n

/-- Answer with a natural-number register on the 32-bit read port (40_config.md R140). -/
def State.answerNat (s : State) (n : Nat) : State := s.ok (.word (word32OfNat n))

/-- Answer with a draw of 32 bits: a register that is unspecified (10_state.md R30, 40_config.md R140; log 7). -/
def State.answerUnspecifiedWord (s : State) : State :=
  { s with draws := s.draws + 1 }.ok (.word (Config.unspecifiedWord s.draws))

/-- `raise PayloadTooLarge(size)` (43_frame_encoder.md R217), the size in the 32-bit cause value (60_exceptions.md R300). -/
def State.refuseTooLarge (s : State) (size : Nat) : State := s.refuse (.payloadTooLarge (word32OfNat size))

/-- Events go to `dbg_out` if the parameter `DEBUG_EVENTS` is present, and nowhere else (60_exceptions.md R302). -/
def State.postEvents (s : State) (es : List Event) : State :=
  if s.params.debugEvents then { s with dbgOut := s.dbgOut ++ es } else s

/-- A request that has to wait goes back to the front of `cmd_in` (60_exceptions.md R318; log 20). -/
def State.requeue (s : State) (i : Instr) : State := { s with cmdIn := encode i :: s.cmdIn }

/-! Buffer primitives (00_scope.md R13, 20_memory.md R60). `append` is `++`, `drop_front` is `List.drop`, `MemRead` of a prefix is
`List.take`. -/

/-- `MemWrite(space, i, 1, x)`. -/
def writeAt {α : Type} (space : List α) (i : Nat) (x : α) : List α := space.set i x

/-- `MemRead(fft_buf, i, 1)`: between classifications the content is not observable (10_state.md R33 (a)), so cell `i` is a free value of
the draw that the buffer holds (log 6). No operation reads it. -/
def FftBuf.cell (b : FftBuf) (i : Nat) : Rat × Rat := Config.fftCell b.draw i

/-! Initialisation. -/

/-- `sps` unspecified elements of `rx_win`: free values of draw number `draw` (log 5). -/
def unspecifiedWindow (draw sps : Nat) : List Sample := (List.range sps).map (Config.unspecifiedSample draw)

/-- The effect of `DEM.INIT` on the demodulator (40_config.md R137): counters 0, every one of the `sps` elements of `rx_win`
unspecified again. -/
def DemRegs.init (sps : Nat) (d : DemRegs) : DemRegs :=
  { d with rxWin := unspecifiedWindow d.draws sps, rxFill := 0, rxShift := 0#8, rxBitcnt := 0, draws := d.draws + 1 }

/-- `rx_win` holds `sps` elements (20_memory.md R61), so its size follows `sps` where a `CFG.LOAD` fails after it has written `sps`:
the elements that are still there are as they were, new ones are unspecified (log 5). -/
def DemRegs.fit (sps : Nat) (d : DemRegs) : DemRegs :=
  if sps ≤ d.rxWin.length then { d with rxWin := d.rxWin.take sps }
  else { d with rxWin := d.rxWin ++ (unspecifiedWindow d.draws sps).drop d.rxWin.length, draws := d.draws + 1 }

/-- The demodulator after `CORE.RESET` (40_config.md R136): as after power-on, `fft_buf` unspecified (a fresh draw), the
operation in progress abandoned (70_reset_and_hazards.md R332). -/
def DemRegs.coreReset (d : DemRegs) : DemRegs :=
  { DemRegs.reset with fftBuf := { draw := d.draws }, draws := d.draws + 1 }

/-- Every register, flag, buffer and internal stream to its reset value, every operation in progress abandoned; the ports keep
their items (40_config.md R136, 70_reset_and_hazards.md R331, R332; log 24). A refusal that waited for an abandoned call to end is
answered now (log 37). -/
def State.coreReset (s : State) : State :=
  { s with
    cfg := CfgRegs.reset
    mod := ModRegs.reset
    dem := s.dem.coreReset
    seqCtr := 0#32
    fdec := FdecRegs.reset
    rxBytes := []
    rspOut := s.rspOut ++ s.mod.late }

/-! Units in progress and requests that wait. -/

/-- A DEM operation is in progress (40_config.md R134). -/
def State.demBusy (s : State) : Bool := s.dem.op.isSome

/-- FDEC is used by an operation in progress: an `FDEC.FEED`, or an `RX.RECV`, which feeds it. -/
def State.fdecBusy (s : State) : Bool :=
  s.fdec.op.isSome || (match s.dem.op with | some (.recv _ _) => true | _ => false)

/-- "a second request to a busy unit waits on `cmd_in` or is refused with `Busy` where a rule says so" (60_exceptions.md R318):
the operations whose requests wait. MOD and CFG requests are refused by their own rules; CORE.RESET and CSR.READ are accepted in
every state; CRC, MSG and FENC operations are pure. The refusals of a request that waits are tested when it is taken: what they
depend on changes before only by a `CORE.RESET`, after which it is taken (logs 20, 38, 39). -/
def State.opMustWait (s : State) : Opcode → Bool
  | .coreReset => false
  | .cfgLoad => false
  | .csrRead => false
  | .crcCalc => false
  | .msgChecksum => false
  | .msgVerify => false
  | .msgNewText => false
  | .msgNewFile => false
  | .msgNewAck => false
  | .msgNewPing => false
  | .fencSer => false
  | .fencWrap => false
  | .fencEncode => false
  | .modEncode => false
  | .txSend => false
  | .demInit => s.demBusy
  | .detClassify => s.demBusy
  | .demDecode => s.demBusy
  | .demPush => s.demBusy
  | .fdecInit => s.fdecBusy
  | .fdecFeed => s.fdecBusy
  | .fdecDeser => s.fdecBusy
  | .rxRecv => s.demBusy || s.fdecBusy

/-- An instruction whose request waits. -/
def State.mustWait (s : State) (i : Instr) : Bool := s.opMustWait (opcodeOf i)

end Sys2Proof.Machine
end

