-- ==== Sys2Proof/Machine/Surd.lean ====
section
/-!
DEFINITION. Exact arithmetic on the real numbers that a transform of size `2^m` of integers is made of. With
`t m = 2 cos (2 pi / 2^m)`: `t 2 = 0` and `t (m + 1)` is the positive square root of `2 + t m`. `Surd n` holds the integer combinations of
products of `t 3, ..., t (n + 2)`: a number of level `n + 1` is `a + b * t (n + 3)` with `a` and `b` of level `n`. Sums, products and
signs are exact, so the comparison of two peaks of 42_demodulator.md R173 is decided "exactly in the reals" (R178, log 13).
-/
namespace Sys2Proof.Machine

/-- The numbers of level `n`: pairs of pairs of … of integers. -/
def Surd : Nat → Type
  | 0 => Int
  | n + 1 => Surd n × Surd n

/-- An integer as a number of level `n`. -/
def surdOfInt : (n : Nat) → Int → Surd n
  | 0, z => z
  | n + 1, z => (surdOfInt n z, surdOfInt n 0)

/-- Sum. -/
def surdAdd : (n : Nat) → Surd n → Surd n → Surd n
  | 0, a, b => Int.add a b
  | n + 1, a, b => (surdAdd n a.1 b.1, surdAdd n a.2 b.2)

/-- Opposite. -/
def surdNeg : (n : Nat) → Surd n → Surd n
  | 0, a => Int.neg a
  | n + 1, a => (surdNeg n a.1, surdNeg n a.2)

/-- Difference. -/
def surdSub (n : Nat) (a b : Surd n) : Surd n := surdAdd n a (surdNeg n b)

/-- The product with `t (n + 2)`, the generator of level `n` (0 at level 0). -/
def surdMulGen : (n : Nat) → Surd n → Surd n
  | 0, _ => (0 : Int)
  | n + 1, a => (surdAdd n (surdAdd n a.2 a.2) (surdMulGen n a.2), a.1)

/-- Product: `(a + b t)(c + d t) = (a c + b d (2 + t')) + (a d + b c) t`, with `t' = t (n + 2)` the generator one level down. -/
def surdMul : (n : Nat) → Surd n → Surd n → Surd n
  | 0, a, b => Int.mul a b
  | n + 1, a, b =>
    let bd := surdMul n a.2 b.2
    (surdAdd n (surdMul n a.1 b.1) (surdAdd n (surdAdd n bd bd) (surdMulGen n bd)),
     surdAdd n (surdMul n a.1 b.2) (surdMul n a.2 b.1))

/-- The sign of the real number, -1, 0 or 1. Of `a + b t` with `t > 0`: the common sign when `a` and `b` do not pull apart, else
that of the larger of `a^2` and `b^2 t^2`. -/
def surdSign : (n : Nat) → Surd n → Int
  | 0, a => Int.sign a
  | n + 1, a =>
    let sa := surdSign n a.1
    let sb := surdSign n a.2
    if sb = 0 then sa
    else if sa = 0 then sb
    else if sa = sb then sa
    else
      let bb := surdMul n a.2 a.2
      let d := surdSub n (surdMul n a.1 a.1) (surdAdd n (surdAdd n bb bb) (surdMulGen n bb))
      sa * surdSign n d

/-- The product with an integer. -/
def surdScale (n : Nat) (z : Int) (a : Surd n) : Surd n := surdMul n (surdOfInt n z) a

/-- `a < b` as real numbers. -/
def surdLt (n : Nat) (a b : Surd n) : Bool := surdSign n (surdSub n b a) == 1

/-- The larger of two numbers. -/
def surdMax (n : Nat) (a b : Surd n) : Surd n := if surdLt n a b then b else a

/-- Twice the sum of `c j * cos (j * 2 pi / 2^(n + 2))` over the entries of `cs`, by Clenshaw's recurrence
`b j = c j + t * b (j + 1) - b (j + 2)`, whose result is `2 b 0 - t b 1`. -/
def cosineSum (n : Nat) (cs : List Int) : Surd n :=
  let b := cs.foldr (fun c s => (surdSub n (surdAdd n (surdOfInt n c) (surdMulGen n s.1)) s.2, s.1))
    (surdOfInt n 0, surdOfInt n 0)
  surdSub n (surdAdd n b.1 b.1) (surdMulGen n b.2)

end Sys2Proof.Machine
end

