-- ==== Sys2Proof/Machine/Demodulator.lean ====
section
/-!
DEFINITION. The symbol detector and the demodulator (42_demodulator.md): the classification of R173 decided exactly, the per-sample
step of R183 to R186, DEM.INIT, DET.CLASSIFY, DEM.DECODE and DEM.PUSH.
-/
namespace Sys2Proof.Machine

/-! The detector. -/

/-- The factor of each cosine `cos (j * 2 pi / N)`, `0 ≤ j < N`, in `Re(X[k]) = sum over n of x[n] * cos (2 pi k n / N)`: the sum of
the samples with `k * n ≡ j` modulo `N`. Samples are in units of `2^-149`; the zero padding of R174 adds nothing. -/
def binCoefficients (n k : Nat) (xs : List Int) : List Int :=
  (xs.zipIdx).foldl (fun acc e => acc.modify ((k * e.2) % n) (fun c => c + e.1)) (List.replicate n 0)

/-- `P[k] = Re(X[k])^2 + Im(X[k])^2` (R175) for a transform of size `2^(m + 2)`, times `(2^150)^2`. The imaginary part is the sum with
`sin x = cos (x - pi/2)`, that is, the coefficients moved by a quarter of the circle; its sign does not matter (R174). -/
def binPower (m k : Nat) (xs : List Int) : Surd m :=
  let cs := binCoefficients (2 ^ (m + 2)) k xs
  let re := cosineSum m cs
  let im := cosineSum m (cs.rotateLeft (2 ^ m))
  surdAdd m (surdMul m re re) (surdMul m im im)

/-- The bins searched around a target: three each side, clipped to `[0, N)` (R176). -/
def searchBins (n bin : Nat) : List Nat :=
  let lo := bin - Config.searchHalfWidth
  let hi := Nat.min (n - 1) (bin + Config.searchHalfWidth)
  List.range' lo (hi + 1 - lo)

/-- `peak_t`: the largest power in the search range (R176). A power is never negative, so the search may start at 0. -/
def peakPower (m bin : Nat) (xs : List Int) : Surd m :=
  (searchBins (2 ^ (m + 2)) bin).foldl (fun best k => surdMax m best (binPower m k xs)) (surdOfInt m 0)

/-- The two peaks are within the band of relative width `eps` in which the bit is not fixed (R178): `eps > 0` and
`|peak_1 - peak_0| ≤ eps * max(peak_0, peak_1)`. -/
def insideBand (m : Nat) (eps : Rat) (p0 p1 : Surd m) : Bool :=
  let big := surdMax m p0 p1
  let small := if surdLt m p0 p1 then p0 else p1
  decide (0 < eps) &&
    !(surdLt m (surdScale m eps.num big) (surdScale m eps.den (surdSub m big small)))

/-- The bit of a window (R173, R177): 1 if and only if `peak_1 > peak_0`. A window with a NaN or an infinity (R179), or with its peaks
inside the band of R178, has the bit `draw`. -/
def windowBit (p : Params) (c : CfgRegs) (draw : Bool) (w : List Sample) : Bool :=
  if w.all f32Finite then
    let m := Nat.log2 c.fftN - 2
    let xs := w.map f32Scaled
    let p0 := peakPower m c.bin0 xs
    let p1 := peakPower m c.bin1 xs
    if insideBand m p.epsRx p0 p1 then draw else surdLt m p0 p1
  else draw

/-- DET classifies a window: the bit, and the demodulator with `fft_buf` overwritten (10_state.md R33 (a)) and one draw used. -/
def DemRegs.classify (p : Params) (c : CfgRegs) (d : DemRegs) (w : List Sample) : Bool × DemRegs :=
  (windowBit p c (Config.detectorBit d.draws) w, { d with fftBuf := { draw := d.draws }, draws := d.draws + 1 })

/-! The demodulator, sample by sample. -/

/-- R183: store one sample. -/
def DemRegs.store (d : DemRegs) (x : Sample) : DemRegs :=
  { d with rxWin := writeAt d.rxWin d.rxFill x, rxFill := d.rxFill + 1 }

/-- R185 and R186: shift one bit in; after the eighth the byte is complete. -/
def DemRegs.shiftIn (d : DemRegs) (bit : Bool) : List Byte × DemRegs :=
  let b := (d.rxShift <<< 1) ||| (BitVec.ofBool bit).setWidth 8
  if d.rxBitcnt + 1 = 8 then ([b], { d with rxShift := 0#8, rxBitcnt := 0 })
  else ([], { d with rxShift := b, rxBitcnt := d.rxBitcnt + 1 })

/-- The per-sample step (R183 to R186): the bytes it completes (none or one) and the demodulator after it. -/
def DemRegs.pushSample (p : Params) (c : CfgRegs) (d : DemRegs) (x : Sample) : List Byte × DemRegs :=
  let d1 := d.store x
  if d1.rxFill < c.sps then ([], d1)
  else
    let r := d1.classify p c (d1.rxWin.take c.sps)
    { r.2 with rxFill := 0 }.shiftIn r.1

/-- The per-sample step over a chunk (R182). -/
def DemRegs.pushSamples (p : Params) (c : CfgRegs) (d : DemRegs) : List Sample → List Byte × DemRegs
  | [] => ([], d)
  | x :: rest =>
    let a := d.pushSample p c x
    let b := DemRegs.pushSamples p c a.2 rest
    (a.1 ++ b.1, b.2)

/-! Operations in progress. -/

/-- A DEM.PUSH or DEM.DECODE with nothing left to consume answers with its bytes; DEM.DECODE then performs its second DEM.INIT
(R188); an RX.RECV with nothing left to take answers with the number of Messages sent (45_composition.md R283). -/
def State.demComplete (s : State) : State :=
  match s.dem.op with
  | some (.push [] out) => { s with dem := { s.dem with op := none } }.ok (.bytes out)
  | some (.decode [] out) => { s with dem := { s.dem with op := none }.init s.cfg.sps }.ok (.bytes out)
  | some (.recv 0 sent) => { s with dem := { s.dem with op := none } }.ok (.count sent)
  | _ => s

/-- One atomic step of a DEM.PUSH, DEM.DECODE or DET.CLASSIFY in progress: one sample, or the whole window. -/
def State.demConsume (s : State) : State :=
  match s.dem.op with
  | some (.push (x :: rest) out) =>
    let r := s.dem.pushSample s.params s.cfg x
    { s with dem := { r.2 with op := some (.push rest (out ++ r.1)) } }.demComplete
  | some (.decode (x :: rest) out) =>
    let r := s.dem.pushSample s.params s.cfg x
    { s with dem := { r.2 with op := some (.decode rest (out ++ r.1)) } }.demComplete
  | some (.classify w) =>
    let r := s.dem.classify s.params s.cfg w
    { s with dem := { r.2 with op := none } }.ok (.bit r.1)
  | _ => s

/-- At most `n` atomic steps of a DEM.PUSH, DEM.DECODE or DET.CLASSIFY in progress. -/
def State.demConsumeAll : Nat → State → State
  | 0, s => s
  | n + 1, s => State.demConsumeAll n s.demConsume

/-- A DEM.PUSH or DEM.DECODE of `n` samples, or a DET.CLASSIFY (`n = 1`), has been accepted: with nothing to consume it answers at
once; when no turn is scheduled it runs to its end (log 1). -/
def State.startDem (s : State) (op : DemOp) (n : Nat) : State :=
  let s' := { s with dem := { s.dem with op := some op } }.demComplete
  if s.sched.isEmpty then s'.demConsumeAll n else s'

/-! The operations. -/

/-- `DEM.INIT` (40_config.md R137): requires `dem_valid = 1`; waits while a DEM operation is in progress (log 20). -/
def execDemInit (s : State) : Host.Outcome State Fault Refusal :=
  if s.demBusy then .next (s.requeue .demInit)
  else if !s.cfg.demValid then .next (s.refuse .notConfigured)
  else .next ({ s with dem := s.dem.init s.cfg.sps }.ok .none)

/-- `DET.CLASSIFY w` (42_demodulator.md R172): `BadOperand` for a window of another length than `sps`, which comes before
`NotConfigured` (60_exceptions.md R311) once `sps` is defined, that is, while `cfg_valid = 1` (log 17); else the bit, in one atomic
step of DEM, before which the operation is in progress (40_config.md R134). -/
def execDetClassify (w : List Sample) (s : State) : Host.Outcome State Fault Refusal :=
  if s.demBusy then .next (s.requeue (.detClassify w))
  else if s.cfg.cfgValid && w.length != s.cfg.sps then .next (s.refuse .badOperand)
  else if !s.cfg.demValid then .next (s.refuse .notConfigured)
  else .next (s.startDem (.classify w) 1)

/-- `DEM.DECODE buf` (42_demodulator.md R188): DEM.INIT, the per-sample step over the buffer, DEM.INIT. -/
def execDemDecode (buf : List Sample) (s : State) : Host.Outcome State Fault Refusal :=
  if s.demBusy then .next (s.requeue (.demDecode buf))
  else if !s.cfg.demValid then .next (s.refuse .notConfigured)
  else .next ({ s with dem := s.dem.init s.cfg.sps }.startDem (.decode buf []) buf.length)

/-- `DEM.PUSH chunk` (42_demodulator.md R182): the per-sample step over the chunk, state kept between calls (R187). -/
def execDemPush (chunk : List Sample) (s : State) : Host.Outcome State Fault Refusal :=
  if s.demBusy then .next (s.requeue (.demPush chunk))
  else if !s.cfg.demValid then .next (s.refuse .notConfigured)
  else .next (s.startDem (.push chunk []) chunk.length)

end Sys2Proof.Machine
end

