-- ==== Sys2Proof/Machine/Text.lean ====
section
/-!
DEFINITION. CRC-32 (43_frame_encoder.md R201), the Message text: the reference serialisers `SER` and `SER_HDR` (30_encoding.md R107) and
deserialiser `DESER` (R111), the choice among instances (00_scope.md R10), and the checksum over them (43_frame_encoder.md R205, R206).
Braces, quotes and the like are given by their ASCII codes.
-/
namespace Sys2Proof.Machine

/-! CRC-32/ISO-HDLC. -/

/-- One round of the inner loop of R201. -/
def crcRound (c : Word32) : Word32 := if c.getLsbD 0 then (c >>> 1) ^^^ Config.crcPoly else c >>> 1

/-- One byte enters the register: XOR into the low 8 bits, then 8 rounds. -/
def crcByte (c : Word32) (b : Byte) : Word32 :=
  crcRound (crcRound (crcRound (crcRound (crcRound (crcRound (crcRound (crcRound (c ^^^ b.setWidth 32))))))))

/-- `f w`, with the number `w` worked out before `f` sees it: it is `f w` (`Laws/Text.lean`), and keeps a long loop shallow when the
kernel evaluates it. -/
def withWord {α : Type} (w : Word32) (f : Word32 → α) : α :=
  match w.toNat with
  | 0 => f 0#32
  | n + 1 => f (BitVec.ofNat 32 (n + 1))

/-- The loop of R201 over a byte string, from the register value `c`. -/
def crcUpdate (c : Word32) : List Byte → Word32
  | [] => c
  | b :: rest => withWord (crcByte c b) (fun c' => crcUpdate c' rest)

/-- `CRC32` (43_frame_encoder.md R201). -/
def crc32 (bytes : List Byte) : Word32 := crcUpdate Config.crcInit bytes ^^^ Config.crcXorOut

/-! Characters and keys. -/

/-- Left brace. -/
def chLBrace : Byte := 0x7B#8
/-- Right brace. -/
def chRBrace : Byte := 0x7D#8
/-- Left bracket. -/
def chLBracket : Byte := 0x5B#8
/-- Right bracket. -/
def chRBracket : Byte := 0x5D#8
/-- Colon. -/
def chColon : Byte := 0x3A#8
/-- Comma. -/
def chComma : Byte := 0x2C#8
/-- Double quote. -/
def chQuote : Byte := 0x22#8
/-- Backslash. -/
def chBackslash : Byte := 0x5C#8

/-- The key `header`. -/
def keyHeader : List Byte := ascii ['h', 'e', 'a', 'd', 'e', 'r']
/-- The key `payload`. -/
def keyPayload : List Byte := ascii ['p', 'a', 'y', 'l', 'o', 'a', 'd']
/-- The key `checksum`. -/
def keyChecksum : List Byte := ascii ['c', 'h', 'e', 'c', 'k', 's', 'u', 'm']
/-- The key `version`. -/
def keyVersion : List Byte := ascii ['v', 'e', 'r', 's', 'i', 'o', 'n']
/-- The key `message_type`. -/
def keyMessageType : List Byte := ascii ['m', 'e', 's', 's', 'a', 'g', 'e', '_', 't', 'y', 'p', 'e']
/-- The key `sequence_number`. -/
def keySequenceNumber : List Byte := ascii ['s', 'e', 'q', 'u', 'e', 'n', 'c', 'e', '_', 'n', 'u', 'm', 'b', 'e', 'r']
/-- The key `timestamp`. -/
def keyTimestamp : List Byte := ascii ['t', 'i', 'm', 'e', 's', 't', 'a', 'm', 'p']
/-- The key `payload_length`. -/
def keyPayloadLength : List Byte := ascii ['p', 'a', 'y', 'l', 'o', 'a', 'd', '_', 'l', 'e', 'n', 'g', 't', 'h']

/-- `tag(k)`: the kind's name on the wire (30_encoding.md R105, R107). -/
def kindTag : Kind → List Byte
  | .text => ascii ['T', 'e', 'x', 't']
  | .file => ascii ['F', 'i', 'l', 'e']
  | .ack => ascii ['A', 'c', 'k']
  | .ping => ascii ['P', 'i', 'n', 'g']

/-- The kind a tag string names, case-sensitive (30_encoding.md R111). -/
def kindOfTag (s : List Byte) : Option Kind :=
  if s = kindTag .text then some .text
  else if s = kindTag .file then some .file
  else if s = kindTag .ack then some .ack
  else if s = kindTag .ping then some .ping
  else none

/-! The canonical serialisers (30_encoding.md R107). -/

/-- A string token: the bytes between double quotes. -/
def quoted (s : List Byte) : List Byte := chQuote :: s ++ [chQuote]

/-- `"key":` -/
def keyed (k : List Byte) : List Byte := quoted k ++ [chColon]

/-- `ARR(p)`: the numerals of the payload bytes separated by commas. -/
def serArray : List Byte → List Byte
  | [] => []
  | [b] => dec b.toNat
  | b :: rest => dec b.toNat ++ chComma :: serArray rest

/-- `SER_HDR(h)`. -/
def serHeader (h : Header) : List Byte :=
  chLBrace :: keyed keyVersion ++ dec h.version.toNat
    ++ chComma :: keyed keyMessageType ++ quoted (kindTag h.kind)
    ++ chComma :: keyed keySequenceNumber ++ dec h.sequenceNumber.toNat
    ++ chComma :: keyed keyTimestamp ++ dec h.timestamp.toNat
    ++ chComma :: keyed keyPayloadLength ++ dec h.payloadLength.toNat
    ++ [chRBrace]

/-- `SER(m)`. -/
def serMessage (m : Message) : List Byte :=
  chLBrace :: keyed keyHeader ++ serHeader m.header
    ++ chComma :: keyed keyPayload ++ chLBracket :: serArray m.payload ++ [chRBracket]
    ++ chComma :: keyed keyChecksum ++ dec m.checksum.toNat
    ++ [chRBrace]

/-! The parameters `SER` and `SER_HDR` (00_scope.md R10), and the checksum (43_frame_encoder.md R205, R206). -/

/-- `SER` of a text format. -/
def serText : TextFormat → Message → List Byte
  | .compactJson, m => serMessage m
  | .other n, m => Config.otherSer n m

/-- `SER_HDR` of a text format. -/
def serHdrText : TextFormat → Header → List Byte
  | .compactJson, h => serHeader h
  | .other n, h => Config.otherSerHeader n h

/-- `CRC32(SER_HDR(header) ++ payload)`, the payload as raw bytes. -/
def messageChecksum (f : TextFormat) (h : Header) (payload : List Byte) : Word32 := crc32 (serHdrText f h ++ payload)

/-- The Message's checksum is the CRC of its header text and payload. -/
def verifyMessage (f : TextFormat) (m : Message) : Bool := m.checksum == messageChecksum f m.header m.payload

/-! The deserialiser (30_encoding.md R111): tokens first, then the grammar. -/

/-- A token of the Message text. -/
inductive Tok where
  | lbrace
  | rbrace
  | lbracket
  | rbracket
  | colon
  | comma
  | str (s : List Byte)
  | num (n : Nat)
  deriving DecidableEq, Repr

/-- Where the scanner stands: between tokens, inside a string, inside a number (characters so far, newest first). -/
inductive LexMode where
  | between
  | inString (rev : List Byte)
  | inNumber (rev : List Byte)
  deriving DecidableEq, Repr

/-- `ws`: space, tab, line feed, carriage return. -/
def isSpace (b : Byte) : Bool := b == 0x20#8 || b == 0x09#8 || b == 0x0A#8 || b == 0x0D#8

/-- A decimal digit. -/
def isDigit (b : Byte) : Bool := decide (0x30 ≤ b.toNat ∧ b.toNat ≤ 0x39)

/-- A character allowed inside a string: `0x20 .. 0x7E` but for the double quote and the backslash. -/
def isStringChar (b : Byte) : Bool := decide (0x20 ≤ b.toNat ∧ b.toNat ≤ 0x7E) && b != chQuote && b != chBackslash

/-- The value of decimal digits, given newest first. -/
def digitsValue : List Byte → Nat
  | [] => 0
  | d :: rest => digitsValue rest * 10 + (d.toNat - 0x30)

/-- A number token: `0`, or digits that do not begin with `0`, at most 20 of them. -/
def numberToken (rev : List Byte) : Option Tok :=
  if rev.length ≤ 20 ∧ (rev = [0x30#8] ∨ rev.getLast? ≠ some 0x30#8) then some (.num (digitsValue rev)) else none

/-- The scanner between tokens reads one byte: the token it completes, if any, and where the scanner then stands. -/
def lexBetween (b : Byte) : Option (List Tok × LexMode) :=
  if isSpace b then some ([], .between)
  else if b = chLBrace then some ([.lbrace], .between)
  else if b = chRBrace then some ([.rbrace], .between)
  else if b = chLBracket then some ([.lbracket], .between)
  else if b = chRBracket then some ([.rbracket], .between)
  else if b = chColon then some ([.colon], .between)
  else if b = chComma then some ([.comma], .between)
  else if b = chQuote then some ([], .inString [])
  else if isDigit b then some ([], .inNumber [b])
  else none

/-- The scanner reads one byte in any mode. -/
def lexByte : LexMode → Byte → Option (List Tok × LexMode)
  | .between, b => lexBetween b
  | .inString rev, b =>
    if b = chQuote then some ([.str rev.reverse], .between)
    else if isStringChar b then some ([], .inString (b :: rev))
    else none
  | .inNumber rev, b =>
    if isDigit b then some ([], .inNumber (b :: rev))
    else
      match numberToken rev, lexBetween b with
      | some t, some (ts, m) => some (t :: ts, m)
      | _, _ => none

/-- The tokens of a byte string from a scanner mode; `none` on a byte no token has. -/
def lex : LexMode → List Byte → Option (List Tok)
  | .between, [] => some []
  | .inString _, [] => none
  | .inNumber rev, [] => (numberToken rev).map (fun t => [t])
  | m, b :: rest =>
    match lexByte m b with
    | none => none
    | some (ts, m') => (lex m' rest).map (fun us => ts ++ us)

/-- The header members read so far. -/
structure HeaderParts where
  version : Option Byte
  kind : Option Kind
  sequenceNumber : Option Word32
  timestamp : Option Word64
  payloadLength : Option (BitVec 16)
  deriving DecidableEq, Repr

/-- No header member read yet. -/
def HeaderParts.empty : HeaderParts :=
  { version := none, kind := none, sequenceNumber := none, timestamp := none, payloadLength := none }

/-- The header when all five members have been read. -/
def HeaderParts.complete (p : HeaderParts) : Option Header :=
  match p.version, p.kind, p.sequenceNumber, p.timestamp, p.payloadLength with
  | some v, some k, some s, some t, some l =>
    some { version := v, kind := k, sequenceNumber := s, timestamp := t, payloadLength := l }
  | _, _, _, _, _ => none

/-- A number token as an unsigned value of `w` bits, if it is in range. -/
def numberInRange (w : Nat) : Tok → Option (BitVec w)
  | .num n => if n < 2 ^ w then some (BitVec.ofNat w n) else none
  | _ => none

/-- One header member `key : value`: a key not listed, a key read before, a value of the wrong kind or out of range fails. -/
def HeaderParts.set (p : HeaderParts) (key : List Byte) (value : Tok) : Option HeaderParts :=
  if key = keyVersion ∧ p.version = none then
    (numberInRange 8 value).map (fun v => { p with version := some v })
  else if key = keyMessageType ∧ p.kind = none then
    match value with
    | .str s => (kindOfTag s).map (fun k => { p with kind := some k })
    | _ => none
  else if key = keySequenceNumber ∧ p.sequenceNumber = none then
    (numberInRange 32 value).map (fun v => { p with sequenceNumber := some v })
  else if key = keyTimestamp ∧ p.timestamp = none then
    (numberInRange 64 value).map (fun v => { p with timestamp := some v })
  else if key = keyPayloadLength ∧ p.payloadLength = none then
    (numberInRange 16 value).map (fun v => { p with payloadLength := some v })
  else none

/-- The members of a header up to and with its closing brace. -/
def parseHeaderMembers : List Tok → HeaderParts → Option (Header × List Tok)
  | .str key :: .colon :: value :: .comma :: rest, p =>
    match p.set key value with
    | none => none
    | some p' => parseHeaderMembers rest p'
  | .str key :: .colon :: value :: .rbrace :: rest, p =>
    match p.set key value with
    | none => none
    | some p' => p'.complete.map (fun h => (h, rest))
  | _, _ => none

/-- The elements of a payload array up to and with its closing bracket, one at least. -/
def parseElements : List Tok → Option (List Byte × List Tok)
  | .num n :: .comma :: rest =>
    if n < 256 then (parseElements rest).map (fun r => (BitVec.ofNat 8 n :: r.1, r.2)) else none
  | .num n :: .rbracket :: rest =>
    if n < 256 then some ([BitVec.ofNat 8 n], rest) else none
  | _ => none

/-- A payload array. -/
def parsePayload : List Tok → Option (List Byte × List Tok)
  | .lbracket :: .rbracket :: rest => some ([], rest)
  | .lbracket :: rest => parseElements rest
  | _ => none

/-- The Message members read so far. -/
structure MessageParts where
  header : Option Header
  payload : Option (List Byte)
  checksum : Option Word32
  deriving DecidableEq, Repr

/-- No Message member read yet. -/
def MessageParts.empty : MessageParts := { header := none, payload := none, checksum := none }

/-- The Message when all three members have been read. -/
def MessageParts.complete (p : MessageParts) : Option Message :=
  match p.header, p.payload, p.checksum with
  | some h, some b, some c => some { header := h, payload := b, checksum := c }
  | _, _, _ => none

/-- The value of the Message member `key`, and the tokens after it. -/
def MessageParts.read (p : MessageParts) (key : List Byte) (toks : List Tok) : Option (MessageParts × List Tok) :=
  if key = keyHeader ∧ p.header = none then
    match toks with
    | .lbrace :: rest => (parseHeaderMembers rest HeaderParts.empty).map (fun r => ({ p with header := some r.1 }, r.2))
    | _ => none
  else if key = keyPayload ∧ p.payload = none then
    (parsePayload toks).map (fun r => ({ p with payload := some r.1 }, r.2))
  else if key = keyChecksum ∧ p.checksum = none then
    match toks with
    | value :: rest => (numberInRange 32 value).map (fun c => ({ p with checksum := some c }, rest))
    | [] => none
  else none

/-- Up to `n` members of the Message, up to and with its closing brace. -/
def parseMessageMembers : Nat → List Tok → MessageParts → Option (Message × List Tok)
  | 0, _, _ => none
  | n + 1, .str key :: .colon :: rest, p =>
    match p.read key rest with
    | some (p', .comma :: rest') => parseMessageMembers n rest' p'
    | some (p', .rbrace :: rest') => p'.complete.map (fun m => (m, rest'))
    | _ => none
  | _ + 1, _, _ => none

/-- A whole Message text as tokens: nothing may follow the closing brace. -/
def parseMessage : List Tok → Option Message
  | .lbrace :: rest =>
    match parseMessageMembers 3 rest MessageParts.empty with
    | some (m, []) => some m
    | _ => none
  | _ => none

/-- `DESER(bytes)` of the reference instance (30_encoding.md R111). -/
def deserialise (bytes : List Byte) : Option Message :=
  match lex .between bytes with
  | none => none
  | some toks => parseMessage toks

/-- `DESER` of a text format (00_scope.md R10). -/
def deserText : TextFormat → List Byte → Option Message
  | .compactJson, bytes => deserialise bytes
  | .other n, bytes => Config.otherDeser n bytes

/-- "attempt to deserialize + verify CRC" (44_frame_decoder.md R254): the Message, or why there is none. -/
def deserVerify (f : TextFormat) (bytes : List Byte) : Except Subcause Message :=
  match deserText f bytes with
  | none => .error .deser
  | some m => if verifyMessage f m then .ok m else .error .crc

end Sys2Proof.Machine
end

