-- ==== Sys2Proof/Machine/Encoder.lean ====
section
/-!
DEFINITION. CRC.CALC, the MSG operations and the frame encoder (43_frame_encoder.md).
-/
namespace Sys2Proof.Machine

/-- `CRC.CALC data` (43_frame_encoder.md R200). -/
def execCrcCalc (data : List Byte) (s : State) : Host.Outcome State Fault Refusal := .next (s.ok (.word (crc32 data)))

/-- `MSG.CHECKSUM header, payload` (R205). -/
def execMsgChecksum (h : Header) (payload : List Byte) (s : State) : Host.Outcome State Fault Refusal :=
  .next (s.ok (.word (messageChecksum s.params.textFormat h payload)))

/-- `MSG.VERIFY msg` (R206). -/
def execMsgVerify (m : Message) (s : State) : Host.Outcome State Fault Refusal := .next (s.ok (.bit (verifyMessage s.params.textFormat m)))

/-! The constructors. -/

/-- The Message of R207 in a text format, for a kind, a sequence number, a time and a payload. -/
def buildMessage (f : TextFormat) (k : Kind) (seq : Word32) (time : Word64) (payload : List Byte) : Message :=
  let h : Header :=
    { version := Config.protoVersion, kind := k, sequenceNumber := seq, timestamp := time
      payloadLength := BitVec.ofNat 16 payload.length }
  { header := h, payload := payload, checksum := messageChecksum f h payload }

/-- The common semantics of the four constructors (R207, R208, R209): `BadOperand` for a payload that `payload_length` cannot
describe; else the caller's number, or `seq_ctr`, which then increments modulo `2^32`, and the level on `time_in`. -/
def State.newMessage (s : State) (k : Kind) (seqSel : Bool) (seq : Word32) (payload : List Byte) : State :=
  if payload.length > Config.maxMessagePayload then s.refuse .badOperand
  else if seqSel then
    { s with seqCtr := s.seqCtr + 1#32 }.ok (.message (buildMessage s.params.textFormat k s.seqCtr s.timeIn payload))
  else s.ok (.message (buildMessage s.params.textFormat k seq s.timeIn payload))

/-- `MSG.NEW.TEXT seq_sel, seq, payload` (R210). -/
def execMsgNewText (seqSel : Bool) (seq : Word32) (payload : List Byte) (s : State) : Host.Outcome State Fault Refusal :=
  .next (s.newMessage .text seqSel seq payload)

/-- `MSG.NEW.FILE seq_sel, seq, payload` (R211). -/
def execMsgNewFile (seqSel : Bool) (seq : Word32) (payload : List Byte) (s : State) : Host.Outcome State Fault Refusal :=
  .next (s.newMessage .file seqSel seq payload)

/-- `MSG.NEW.ACK seq_sel, seq, payload` (R212). -/
def execMsgNewAck (seqSel : Bool) (seq : Word32) (payload : List Byte) (s : State) : Host.Outcome State Fault Refusal :=
  .next (s.newMessage .ack seqSel seq payload)

/-- `MSG.NEW.PING seq_sel, seq, payload` (R213). -/
def execMsgNewPing (seqSel : Bool) (seq : Word32) (payload : List Byte) (s : State) : Host.Outcome State Fault Refusal :=
  .next (s.newMessage .ping seqSel seq payload)

/-! The frame encoder. -/

/-- The frame of 30_encoding.md R90 around an envelope payload: preamble, start delimiter, length, payload, end delimiter. -/
def wrapFrame (p : List Byte) : List Byte :=
  List.replicate Config.preambleLen Config.preambleByte ++ [Config.delimByte, Config.delimByte]
    ++ bytesOfLength p.length ++ p ++ [Config.delimByte, Config.delimByte]

/-- The envelope payload fits the length field's legal range (R216). -/
def fitsEnvelope (p : List Byte) : Bool := decide (p.length ≤ Config.maxLen)

/-- `FENC.SER msg` (R215). -/
def execFencSer (m : Message) (s : State) : Host.Outcome State Fault Refusal := .next (s.ok (.bytes (serText s.params.textFormat m)))

/-- Answer with the frame around `p`, or `PayloadTooLarge` (R216, R217). -/
def State.answerFrame (s : State) (p : List Byte) : State :=
  if fitsEnvelope p then s.ok (.bytes (wrapFrame p)) else s.refuseTooLarge p.length

/-- `FENC.WRAP p` (R216). -/
def execFencWrap (p : List Byte) (s : State) : Host.Outcome State Fault Refusal := .next (s.answerFrame p)

/-- `FENC.ENCODE msg` (R218): `FENC.WRAP(FENC.SER(msg))`. -/
def execFencEncode (m : Message) (s : State) : Host.Outcome State Fault Refusal := .next (s.answerFrame (serText s.params.textFormat m))

end Sys2Proof.Machine
end

