-- ==== Sys2Proof/Machine/FrameDecoder.lean ====
section
/-!
DEFINITION. The frame decoder (44_frame_decoder.md): one rule at a time (R243 to R252), `feed_byte` (R241, R242), FDEC.INIT, FDEC.FEED and
FDEC.DESER.
-/
namespace Sys2Proof.Machine

/-- What one rule of the decoder does: the registers after it, the Messages it emits, the events it raises, and whether the next
rule runs in the same `feed_byte` ("continue") or not ("wait"). -/
structure RuleResult where
  regs : FdecRegs
  msgs : List Message
  events : List Event
  again : Bool
  deriving DecidableEq, Repr

/-- "wait": nothing changes until the next `feed_byte` (R241). -/
def ruleWait (r : FdecRegs) : RuleResult := { regs := r, msgs := [], events := [], again := false }

/-- The decoder's "reset" (R253): back to `WP` with the pending fields cleared and `fdec_buf` left as it is. -/
def FdecRegs.resync (r : FdecRegs) : FdecRegs := { r with tag := .wp, len := 0, pay := [] }

/-- The lowest offset of eight consecutive preamble bytes (R243). -/
def findPreamble : List Byte → Option Nat
  | [] => none
  | b :: rest =>
    if (b :: rest).take Config.preambleLen = List.replicate Config.preambleLen Config.preambleByte then some 0
    else (findPreamble rest).map (fun k => k + 1)

/-- States `WP` (R243, R244). -/
def ruleWp (r : FdecRegs) : RuleResult :=
  match findPreamble r.buf with
  | some k =>
    { regs := { r with buf := r.buf.drop (k + Config.preambleLen), tag := .ws }
      msgs := [], events := [.preambleFound], again := true }
  | none => ruleWait r

/-- State `WS` (R245). -/
def ruleWs (r : FdecRegs) : RuleResult :=
  match r.buf with
  | a :: b :: rest =>
    if a = Config.delimByte ∧ b = Config.delimByte then
      { regs := { r with buf := rest, tag := .rl }, msgs := [], events := [], again := true }
    else { regs := r.resync, msgs := [], events := [.frameCorrupt .start], again := true }
  | _ => ruleWait r

/-- State `RL` (R246, R247). -/
def ruleRl (r : FdecRegs) : RuleResult :=
  match r.buf with
  | a :: b :: rest =>
    let l := lengthOfBytes a b
    if 1 ≤ l ∧ l ≤ Config.maxLen then
      { regs := { r with buf := rest, len := l, pay := [], tag := .rm }, msgs := [], events := [], again := true }
    else { regs := r.resync, msgs := [], events := [.frameCorrupt .length], again := true }
  | _ => ruleWait r

/-- State `RM` (R249): payload bytes move as they arrive and are not inspected. -/
def ruleRm (r : FdecRegs) : RuleResult :=
  let m := Nat.min r.buf.length (r.len - r.pay.length)
  let r' := { r with pay := r.pay ++ r.buf.take m, buf := r.buf.drop m }
  if r'.pay.length = r.len then { regs := { r' with tag := .we }, msgs := [], events := [], again := true }
  else ruleWait r'

/-- State `WE` (R250, R251, R252). -/
def ruleWe (f : TextFormat) (r : FdecRegs) : RuleResult :=
  match r.buf with
  | a :: b :: rest =>
    if a = Config.delimByte ∧ b = Config.delimByte then
      match deserVerify f r.pay with
      | .ok m => { regs := { r with buf := rest }.resync, msgs := [m], events := [.frameOk], again := true }
      | .error sub => { regs := { r with buf := rest }.resync, msgs := [], events := [.frameCorrupt sub], again := true }
    else { regs := r.resync, msgs := [], events := [.frameCorrupt .endDelim], again := true }
  | _ => ruleWait r

/-- The one rule enabled in the current state (R241). -/
def fdecRule (f : TextFormat) (r : FdecRegs) : RuleResult :=
  match r.tag with
  | .wp => ruleWp r
  | .ws => ruleWs r
  | .rl => ruleRl r
  | .rm => ruleRm r
  | .we => ruleWe f r

/-- Step 2 of R241: rules until one says "wait", at most `n` of them. -/
def fdecRules (f : TextFormat) : Nat → FdecRegs → FdecRegs × List Message × List Event
  | 0, r => (r, [], [])
  | n + 1, r =>
    let a := fdecRule f r
    if a.again then
      let b := fdecRules f n a.regs
      (b.1, a.msgs ++ b.2.1, a.events ++ b.2.2)
    else (a.regs, a.msgs, a.events)

/-- R242: append one byte, and the overflow truncation. -/
def FdecRegs.append (p : Params) (r : FdecRegs) (b : Byte) : FdecRegs × List Event :=
  let r1 := { r with buf := r.buf ++ [b] }
  if p.cap < r1.buf.length then
    ({ r1 with buf := r1.buf.drop (r1.buf.length - p.half) }.resync, [.bufferOverflow])
  else (r1, [])

/-- A number of rules that is enough (R255): at most two for every byte held, and a few more. -/
def FdecRegs.rulesEnough (r : FdecRegs) : Nat := 2 * r.buf.length + 4

/-- `feed_byte(b)` (R241): the registers, the Messages emitted and the events, in order. -/
def feedByte (p : Params) (r : FdecRegs) (b : Byte) : FdecRegs × List Message × List Event :=
  let a := r.append p b
  let x := fdecRules p.textFormat a.1.rulesEnough a.1
  (x.1, x.2.1, a.2 ++ x.2.2)

/-- `feed_byte` over a byte string (R240). -/
def feedBytes (p : Params) (r : FdecRegs) : List Byte → FdecRegs × List Message × List Event
  | [] => (r, [], [])
  | b :: rest =>
    let a := feedByte p r b
    let x := feedBytes p a.1 rest
    (x.1, a.2.1 ++ x.2.1, a.2.2 ++ x.2.2)

/-! Operations in progress. -/

/-- An FDEC.FEED with nothing left to consume answers with its Messages (R240). -/
def State.feedComplete (s : State) : State :=
  match s.fdec.op with
  | some { rest := [], out := ms } => { s with fdec := { s.fdec with op := none } }.ok (.messages ms)
  | _ => s

/-- One byte of an FDEC.FEED in progress. -/
def State.feedConsume (s : State) : State :=
  match s.fdec.op with
  | some { rest := b :: rest, out := ms } =>
    let x := feedByte s.params s.fdec b
    ({ s with fdec := { x.1 with op := some { rest := rest, out := ms ++ x.2.1 } } }.postEvents x.2.2).feedComplete
  | _ => s

/-- At most `n` bytes of an FDEC.FEED in progress. -/
def State.feedConsumeAll : Nat → State → State
  | 0, s => s
  | n + 1, s => State.feedConsumeAll n s.feedConsume

/-- An FDEC.FEED has been accepted: an empty chunk answers at once; when no turn is scheduled it runs to its end (log 1). -/
def State.startFeed (s : State) (chunk : List Byte) : State :=
  let s' := { s with fdec := { s.fdec with op := some { rest := chunk, out := [] } } }.feedComplete
  if s.sched.isEmpty then s'.feedConsumeAll chunk.length else s'

/-! The operations. -/

/-- `FDEC.INIT` (40_config.md R138): "Created empty". -/
def execFdecInit (s : State) : Host.Outcome State Fault Refusal :=
  if s.fdecBusy then .next (s.requeue .fdecInit)
  else .next ({ s with fdec := FdecRegs.reset }.ok .none)

/-- `FDEC.FEED chunk` (44_frame_decoder.md R240). -/
def execFdecFeed (chunk : List Byte) (s : State) : Host.Outcome State Fault Refusal :=
  if s.fdecBusy then .next (s.requeue (.fdecFeed chunk))
  else .next (s.startFeed chunk)

/-- `FDEC.DESER text` (44_frame_decoder.md R254): the Message, or status `FrameCorrupt` with the subcause. -/
def execFdecDeser (text : List Byte) (s : State) : Host.Outcome State Fault Refusal :=
  if s.fdecBusy then .next (s.requeue (.fdecDeser text))
  else
    match deserVerify s.params.textFormat text with
    | .ok m => .next (s.ok (.message m))
    | .error sub => .next (s.refuse (.frameCorrupt sub))

end Sys2Proof.Machine
end

