-- ==== Sys2Proof/Machine/Trig.lean ====
section
/-!
DEFINITION. The sine of a rational number of turns, decided exactly. 41_modulator.md R151 and R158 give the sample as a real
number and the emitted value as a condition on that real; here the real is enclosed between two rationals, by halving
angles (no value of pi is needed), and a question about it is asked at growing precision until the enclosure answers it.
Where the sine is rational the enclosure is the value itself, so that ties are decided too (log 12).
-/
namespace Sys2Proof.Machine

/-- The floor of the square root of `n`, for `n < 4^b`. -/
def isqrt : Nat → Nat → Nat
  | 0, _ => 0
  | b + 1, n =>
    let r := 2 * isqrt b (n / 4)
    if (r + 1) * (r + 1) ≤ n then r + 1 else r

/-- The square root of `n` rounded up, for `n < 4^b`. -/
def isqrtUp (b n : Nat) : Nat := if isqrt b n * isqrt b n = n then isqrt b n else isqrt b n + 1

/-- The numerator over `d` of an angle with the same cosine as twice the angle `n / d` (in half turns, `0 ≤ n ≤ d`), again in
`0 .. d`. -/
def foldAngle (n d : Nat) : Nat := if 2 * n ≤ d then 2 * n else 2 * d - 2 * n

/-- An enclosure of `cos (pi * n / d)`, `0 ≤ n ≤ d`, in units of `2^-p`: from an enclosure for the doubled angle by
`cos x = ± sqrt ((1 + cos (2 x)) / 2)`, `k` times. -/
def cosEnclosure (p : Nat) : Nat → Nat → Nat → Int × Int
  | 0, _, _ => (-(2 ^ p : Int), (2 ^ p : Int))
  | k + 1, n, d =>
    let e := cosEnclosure p k (foldAngle n d) d
    let a : Int := isqrt (p + 1) ((2 ^ p + e.1).toNat * 2 ^ (p - 1))
    let b : Int := isqrtUp (p + 1) ((2 ^ p + e.2).toNat * 2 ^ (p - 1))
    if 2 * n ≤ d then (a, b) else (-b, -a)

/-- The fractional part of a number of turns, in `[0, 1)`. -/
def fracTurn (r : Rat) : Rat := r - r.floor

/-- The sine of `r` turns where it is rational: multiples of a twelfth of a turn. -/
def exactSin (r : Rat) : Option Rat :=
  let f := fracTurn r
  if f = 0 ∨ f = 1 / 2 then some 0
  else if f = 1 / 12 ∨ f = 5 / 12 then some (1 / 2)
  else if f = 7 / 12 ∨ f = 11 / 12 then some (-1 / 2)
  else if f = 1 / 4 then some 1
  else if f = 3 / 4 then some (-1)
  else none

/-- `sin (2 pi r) = cos (pi w)` with `w` this number of half turns, folded into `[0, 1]`. -/
def halfTurns (r : Rat) : Rat :=
  let v := 2 * fracTurn (r - 1 / 4)
  if v ≤ 1 then v else 2 - v

/-- An enclosure of `sin (2 pi r)` between two rationals, after `k` halvings. -/
def sinEnclosure (k : Nat) (r : Rat) : Rat × Rat :=
  match exactSin r with
  | some v => (v, v)
  | none =>
    let w := halfTurns r
    let e := cosEnclosure (2 * k + 8) k w.num.toNat w.den
    ((e.1 : Rat) / (2 ^ (2 * k + 8) : Nat), (e.2 : Rat) / (2 ^ (2 * k + 8) : Nat))

/-- The bits of a rational, numerator and denominator. -/
def ratBits (q : Rat) : Nat := Nat.log2 q.num.natAbs + Nat.log2 q.den + 2

/-- The precisions at which a question about `q * sin (2 pi r)` is asked, the last of them enough to answer any comparison
with a binary32 value or with one moved by `eps`: twice the sine is an algebraic integer of degree at most the denominator of
the angle, so that it is no nearer to a rational it differs from than this many bits (log 12). -/
def precisions (q r eps : Rat) : List Nat :=
  let bits := (halfTurns r).den * (ratBits q + ratBits eps + 400)
  (List.range (Nat.log2 bits + 1)).map (fun j => 56 * 2 ^ j)

/-- The enclosure of `q * sin (2 pi r)` for `q ≥ 0`, after `k` halvings. -/
def scaledSinEnclosure (q r : Rat) (k : Nat) : Rat × Rat :=
  (q * (sinEnclosure k r).1, q * (sinEnclosure k r).2)

/-- The number of an enclosure that is nearest to 0. -/
def nearestToZero (e : Rat × Rat) : Rat := if 0 < e.1 then e.1 else if e.2 < 0 then e.2 else 0

/-- `f32(q * sin (2 pi r))`: the binary32 value that both ends of the enclosure round to, once it is one value. The value for an
enclosure that never gets there is not needed (log 12); it is one that is never larger than the real. -/
def f32OfSin (q r : Rat) : Sample :=
  ((precisions q r 1).findSome? (fun k =>
    let e := scaledSinEnclosure q r k
    if f32Nearest e.1 = f32Nearest e.2 then some (f32Nearest e.1) else none)).getD
      (f32Nearest (nearestToZero (scaledSinEnclosure q r 56)))

/-- `|v - q * sin (2 pi r)| ≤ eps`. -/
def nearSin (q r eps v : Rat) : Bool :=
  ((precisions q r eps).findSome? (fun k =>
    let e := scaledSinEnclosure q r k
    if v - eps ≤ e.1 ∧ e.2 ≤ v + eps then some true
    else if e.2 < v - eps ∨ v + eps < e.1 then some false
    else none)).getD false

end Sys2Proof.Machine
end

