-- ==== Sys2Proof/Machine/Modulator.lean ====
section
/-!
DEFINITION. The modulator (41_modulator.md): the sample of R151 and R158, the step machine of R152, R153 and R156, the functional
definition R151, and MOD.ENCODE.
-/
namespace Sys2Proof.Machine

/-! One sample. -/

/-- The tone of a bit: `freq_1` for 1, `freq_0` for 0 (R153). -/
def toneOf (c : ModConfig) (bit : Bool) : Rat := if bit then c.freq1 else c.freq0

/-- The factor `up(j, i)` of R151 (R154): `i / ramp_n` over the first `ramp_n` samples of the first symbol. -/
def rampUp (rampN i : Nat) (first : Bool) : Rat := if first ∧ i < rampN then (i : Rat) / (rampN : Rat) else 1

/-- The factor `down(j, i)` of R151 (R155): `(sps - 1 - i) / ramp_n` over the last `ramp_n` samples of the last symbol. -/
def rampDown (sps rampN i : Nat) (last : Bool) : Rat :=
  if last ∧ sps ≤ i + rampN then ((sps : Rat) - 1 - (i : Rat)) / (rampN : Rat) else 1

/-- `amplitude * g(j, i)`, the factor of the sine in R151. -/
def sampleScale (c : CfgRegs) (i : Nat) (first last : Bool) : Rat :=
  c.conf.amplitude * rampUp c.rampN i first * rampDown c.sps c.rampN i last

/-- `f * i / sample_rate`, the phase of R151 in turns: it starts at 0 in every symbol (R153). -/
def samplePhase (c : CfgRegs) (bit : Bool) (i : Nat) : Rat := toneOf c.conf bit * (i : Rat) / c.conf.sampleRate

/-- The places where a factor of the product is exactly zero: the first sample of every symbol and, with a ramp, the final
sample of the call (R158). -/
def sampleIsZero (c : CfgRegs) (i : Nat) (last : Bool) : Bool :=
  decide (i = 0) || (last && decide (0 < c.rampN) && decide (i + 1 = c.sps))

/-- A sample no larger than the amplitude (R159), or another one. -/
def withinAmplitude (c : CfgRegs) (x other : Sample) : Sample :=
  if f32Finite x = true ∧ (f32Value x).abs ≤ c.conf.amplitude then x else other

/-- The reference sample `f32(y)` of R158; where rounding would carry it past the amplitude (R159), the binary32 value next to it
towards zero, whose pattern is one less and which is not past it (the 0 after that is never reached; log 11). -/
def referenceSample (c : CfgRegs) (bit : Bool) (i : Nat) (first last : Bool) : Sample :=
  let x := f32OfSin (sampleScale c i first last) (samplePhase c bit i)
  withinAmplitude c x (withinAmplitude c (x - 1#32) 0#32)

/-- The values R158 allows an implementation at a sample that is not an exact zero: finite, no larger than the amplitude (R159),
within `EPS_TX` of the real value. -/
def sampleAllowed (eps : Rat) (c : CfgRegs) (bit : Bool) (i : Nat) (first last : Bool) (x : Sample) : Bool :=
  f32Finite x && decide ((f32Value x).abs ≤ c.conf.amplitude)
    && nearSin (sampleScale c i first last) (samplePhase c bit i) eps (f32Value x)

/-- The sample put on `pcm_out` (R158, R159; log 11). -/
def sampleOut (p : Params) (c : CfgRegs) (bit : Bool) (i : Nat) (first last : Bool) : Sample :=
  match p.sampling with
  | .reference => if sampleIsZero c i last then 0#32 else referenceSample c bit i first last
  | .within eps =>
    let x := Config.sampleChoice c.conf bit i first last
    if sampleIsZero c i last then (if x.msb then 0x80000000#32 else 0#32)
    else if sampleAllowed eps c bit i first last x then x
    else referenceSample c bit i first last

/-! The step machine. -/

/-- R152: take the next byte from `tx_bytes`. -/
def ModRegs.take (m : ModRegs) : ModRegs :=
  match m.tx with
  | [] => m
  | (b, l) :: rest =>
    { m with tx := rest, byte := b, isLast := l, held := true, active := true
             firstSym := if m.active then m.firstSym else true }

/-- The bit being sent (10_state.md R24). -/
def ModRegs.bit (m : ModRegs) : Bool := m.byte.getLsbD (7 - m.bitIdx)

/-- The symbol being sent is the last of the call (R153). -/
def ModRegs.lastSym (m : ModRegs) : Bool := m.isLast && decide (m.bitIdx = 7)

/-- R153: the item that goes on `pcm_out`. -/
def ModRegs.item (p : Params) (c : CfgRegs) (m : ModRegs) : PcmItem :=
  { sample := sampleOut p c m.bit m.sampIdx m.firstSym m.lastSym
    last := m.lastSym && decide (m.sampIdx + 1 = c.sps) }

/-- R156: advance the counters after one sample. -/
def ModRegs.advance (c : CfgRegs) (m : ModRegs) : ModRegs :=
  if m.sampIdx + 1 < c.sps then { m with sampIdx := m.sampIdx + 1 }
  else if m.bitIdx < 7 then { m with sampIdx := 0, firstSym := false, bitIdx := m.bitIdx + 1 }
  else { m with sampIdx := 0, firstSym := false, bitIdx := 0, held := false, active := !m.isLast }

/-- One atomic step of MOD: take a byte when none is held (R152), else emit one sample and advance (R153, R156). An idle modulator
has no step. -/
def ModRegs.step (p : Params) (c : CfgRegs) (m : ModRegs) : List PcmItem × ModRegs :=
  if !m.active then ([], m)
  else if m.held then ([m.item p c], m.advance c)
  else ([], m.take)

/-- At most `n` atomic steps, stopping when the modulator is idle. -/
def ModRegs.run (p : Params) (c : CfgRegs) : Nat → ModRegs → List PcmItem × ModRegs
  | 0, m => ([], m)
  | n + 1, m =>
    if m.active then
      let a := m.step p c
      let b := ModRegs.run p c n a.2
      (a.1 ++ b.1, b.2)
    else ([], m)

/-- A number of atomic steps that is enough to finish the call: 8 symbols and one taking for every byte held or waiting. -/
def ModRegs.workLeft (c : CfgRegs) (m : ModRegs) : Nat := (8 * c.sps + 9) * (m.tx.length + 1)

/-- The modulator has made some steps: its items go on `pcm_out`; if it has become idle the operation answers `Ok` (R156), and the
refusals that waited for this follow (log 37). -/
def State.modAdvance (s : State) (r : List PcmItem × ModRegs) : State :=
  let s' := { s with mod := r.2, pcmOut := s.pcmOut ++ r.1 }
  if s.mod.active && !r.2.active then (s'.ok .none).sendLate else s'

/-- One atomic step of MOD in the core. -/
def State.modStep (s : State) : State := s.modAdvance (s.mod.step s.params s.cfg)

/-- MOD runs until it is idle. -/
def State.modFinish (s : State) : State := s.modAdvance (s.mod.run s.params s.cfg (s.mod.workLeft s.cfg))

/-- A byte string as `tx_bytes` items: `last = 1` on the final byte, `last = 0` on the others (30_encoding.md R120). -/
def txItems : List Byte → List (Byte × Bool)
  | [] => []
  | [b] => [(b, true)]
  | b :: rest => (b, false) :: txItems rest

/-- MOD.ENCODE accepted: an empty string completes at once (R152, R160); else the items go on `tx_bytes`, the first byte is taken
(log 19), and, when no turn is scheduled, the modulator runs to the end of the call (log 1). -/
def State.startEncode (s : State) (bytes : List Byte) : State :=
  match bytes with
  | [] => s.ok .none
  | _ =>
    let s' := { s with mod := { s.mod with tx := txItems bytes }.take }
    if s.sched.isEmpty then s'.modFinish else s'

/-- `MOD.ENCODE bytes` (R150): `NotConfigured` while `cfg_valid = 0` (40_config.md R135), `Busy` while `mod_active = 1` (60_exceptions.md
R309), else the samples on `pcm_out` and `Ok`. Where a call is running, the refusal is decided at once and its answer stands on
`rsp_out` after that call's `Ok`: DESIGN CHOICE, log 37. -/
def execModEncode (bytes : List Byte) (s : State) : Host.Outcome State Fault Refusal :=
  if !s.cfg.cfgValid then .next (s.refuseMod .notConfigured)
  else if s.mod.active then .next (s.refuseMod .busy)
  else .next (s.startEncode bytes)

/-! The functional definition. -/

/-- Output item number `j * sps + i` of R151, for a call of `n` bytes. -/
def encodedItem (p : Params) (c : CfgRegs) (bytes : List Byte) (j i : Nat) : PcmItem :=
  let lastSym := decide (j + 1 = 8 * bytes.length)
  { sample := sampleOut p c (bitOfBytes bytes j) i (decide (j = 0)) lastSym
    last := lastSym && decide (i + 1 = c.sps) }

/-- All output items of R151 in order: symbol by symbol, sample by sample. -/
def encodedItems (p : Params) (c : CfgRegs) (bytes : List Byte) : List PcmItem :=
  (List.range (8 * bytes.length)).flatMap (fun j => (List.range c.sps).map (fun i => encodedItem p c bytes j i))

end Sys2Proof.Machine
end

