-- ==== Sys2Proof/Machine/Compose.lean ====
section
/-!
DEFINITION. The two pipelines: TX.SEND and RX.RECV (45_composition.md).
-/
namespace Sys2Proof.Machine

/-- `TX.SEND msg` (45_composition.md R280): `NotConfigured`, `Busy`, `PayloadTooLarge` in this order and without effect; else the frame of
the Message goes to MOD.ENCODE. Where a call is running, the refusal is decided at once and its answer stands on `rsp_out` after that
call's `Ok`: DESIGN CHOICE, log 37. -/
def execTxSend (m : Message) (s : State) : Host.Outcome State Fault Refusal :=
  if !s.cfg.cfgValid then .next (s.refuseMod .notConfigured)
  else if s.mod.active then .next (s.refuseMod .busy)
  else
    let text := serText s.params.textFormat m
    if fitsEnvelope text then .next (s.startEncode (wrapFrame text)) else .next (s.refuseTooLarge text.length)

/-- FDEC takes everything on `rx_bytes`: each emitted Message goes on `msg_out`, events to the debug port (R283). The number of
Messages sent, and the core after it. -/
def State.drainRxBytes (s : State) : Nat × State :=
  let x := feedBytes s.params s.fdec s.rxBytes
  (x.2.1.length, { s with fdec := x.1, rxBytes := [], msgOut := s.msgOut ++ x.2.1 }.postEvents x.2.2)

/-- The body of step 2 of R283 for one sample: the per-sample step of DEM, its byte on `rx_bytes`, and FDEC on that byte. -/
def State.recvSample (s : State) (x : Sample) : Nat × State :=
  let r := s.dem.pushSample s.params s.cfg x
  { s with dem := r.2, rxBytes := s.rxBytes ++ r.1 }.drainRxBytes

/-- One sample of an RX.RECV in progress: taken from `pcm_in`; with none there the step is not enabled and the operation waits
(20_memory.md R63). -/
def State.recvConsume (s : State) : State :=
  match s.dem.op, s.pcmIn with
  | some (.recv (left + 1) sent), x :: rest =>
    let r := { s with pcmIn := rest }.recvSample x
    { r.2 with dem := { r.2.dem with op := some (.recv left (sent + r.1)) } }.demComplete
  | _, _ => s

/-- At most `n` samples of an RX.RECV in progress. -/
def State.recvConsumeAll : Nat → State → State
  | 0, s => s
  | n + 1, s => State.recvConsumeAll n s.recvConsume

/-- An RX.RECV has been accepted: with count 0 it answers at once; when no turn is scheduled it takes the samples that are there,
and stays in progress if there are fewer than `count` (log 1, log 36). -/
def State.startRecv (s : State) (count : Nat) : State :=
  let s' := { s with dem := { s.dem with op := some (.recv count 0) } }.demComplete
  if s.sched.isEmpty then s'.recvConsumeAll (Nat.min count s.pcmIn.length) else s'

/-- `RX.RECV count` (45_composition.md R283). While DEM or FDEC is busy the request waits on `cmd_in`, and step 1 of R283 tests
`dem_valid` when the request is taken: DESIGN CHOICE, log 38. While it waits `dem_valid` changes only if a `CORE.RESET` clears it (log 39),
so that one that waits with `dem_valid = 0` ends with the status that 60_exceptions.md R311 gives. -/
def execRxRecv (count : Nat) (s : State) : Host.Outcome State Fault Refusal :=
  if s.demBusy || s.fdecBusy then .next (s.requeue (.rxRecv count))
  else if !s.cfg.demValid then .next (s.refuse .notConfigured)
  else .next (s.startRecv count)

end Sys2Proof.Machine
end

