-- ==== Sys2Proof/Machine/System.lean ====
section
/-!
DEFINITION. The system operations: CORE.RESET, CFG.LOAD, CSR.READ (40_config.md).
-/
namespace Sys2Proof.Machine

/-! CORE.RESET. -/

/-- `CORE.RESET` (40_config.md R136): accepted in every state; everything to its reset value, then status `Ok`. -/
def execCoreReset (s : State) : Host.Outcome State Fault Refusal := .next (s.coreReset.ok .none)

/-! The parameter `CFG_NUM_FORMAT` (00_scope.md R10, 92_eei_decisions.md D5; log 9). -/

/-- The ModConfig that arrives on the configuration port. The format concerns the five values that are not integers (D5). -/
def receiveConfig : NumFormat → ModConfig → ModConfig
  | .rational, c => c
  | .other n, c =>
    { c with
      freq0 := Config.numberReceived n c.freq0
      freq1 := Config.numberReceived n c.freq1
      symbolDuration := Config.numberReceived n c.symbolDuration
      rampDuration := Config.numberReceived n c.rampDuration
      amplitude := Config.numberReceived n c.amplitude }

/-- What `CSR.READ` answers for a rational-valued register: "a model may return the rational itself", else 32 bits (10_state.md R30). -/
def sendNumber : NumFormat → Rat → Value
  | .rational, q => .rational q
  | .other n, q => .word (Config.numberSent n q)

/-- The draw of a rational-valued register that is unspecified (10_state.md R30; log 7). -/
def drawNumber : NumFormat → Nat → Value
  | .rational, n => .rational (Config.unspecifiedRat n)
  | .other _, n => .word (Config.unspecifiedWord n)

/-! CFG.LOAD. -/

/-- Step 3 of R130 after step 2: the flags cleared, the six configuration registers written from the operands. -/
def CfgRegs.writeConf (r : CfgRegs) (c : ModConfig) : CfgRegs :=
  { r with conf := c, cfgValid := false, demValid := false }

/-- Step 5 of R130: `sps` and `ramp_n` (R133). -/
def CfgRegs.deriveSymbol (r : CfgRegs) : CfgRegs :=
  { r with
    sps := roundHalfUp (r.conf.sampleRate * r.conf.symbolDuration)
    rampN := roundHalfUp (r.conf.sampleRate * r.conf.rampDuration) }

/-- `bin_k = round(freq_k * fft_n / sample_rate)` (R133). -/
def targetBin (freq sampleRate : Rat) (fftN : Nat) : Nat := roundHalfUp (freq * fftN / sampleRate)

/-- Steps 7 and 8 of R130: `cfg_valid` set, then `fft_n`, `bin_0`, `bin_1` and the plan (R133). -/
def CfgRegs.deriveTransform (r : CfgRegs) : CfgRegs :=
  let n := pow2AtLeast r.sps
  { r with
    cfgValid := true
    fftN := n
    bin0 := targetBin r.conf.freq0 r.conf.sampleRate n
    bin1 := targetBin r.conf.freq1 r.conf.sampleRate n
    fftPlan := n }

/-- Steps 2 to 10 of R130: the configuration unit after the attempt, and the first check that failed. -/
def CfgRegs.load (r : CfgRegs) (nMax : Option Nat) (c : ModConfig) : CfgRegs × Option ConfigCheck :=
  let r3 := r.writeConf c
  match baseFailure c with
  | some check => (r3, some check)
  | none =>
    let r5 := r3.deriveSymbol
    match derivedFailure r5.sps r5.rampN with
    | some check => (r5, some check)
    | none =>
      let r8 := r5.deriveTransform
      match demodFailure nMax r8.fftN r8.bin0 r8.bin1 with
      | some check => (r8, some check)
      | none => ({ r8 with demValid := true }, none)

/-- `CFG.LOAD` is `Busy` while MOD or a DEM operation is at work (R134). -/
def State.cfgBusy (s : State) : Bool := s.mod.active || s.demBusy

/-- `CFG.LOAD cfg` (40_config.md R130): `Busy` without effect (R134); else the writes up to the failing check and
`ConfigError` (60_exceptions.md R312), with `rx_win` of the size that `sps` now gives it (log 5), or all of them, `DEM.INIT`, and
`Ok`. -/
def execCfgLoad (c : ModConfig) (s : State) : Host.Outcome State Fault Refusal :=
  if s.cfgBusy then .next (s.refuse .busy)
  else
    match s.cfg.load s.params.nMax (receiveConfig s.params.numFormat c) with
    | (r, some check) => .next ({ s with cfg := r, dem := s.dem.fit r.sps }.refuse (.configError check))
    | (r, none) => .next ({ s with cfg := r, dem := s.dem.init r.sps }.ok .none)

/-! CSR.READ. -/

/-- A register of the configuration unit that reads as a draw while `cfg_valid = 0` (40_config.md R140): a natural number. -/
def State.answerCfgNat (s : State) (n : Nat) : State := if s.cfg.cfgValid then s.answerNat n else s.answerUnspecifiedWord

/-- The same for a rational-valued register, in the number format (10_state.md R30; log 9). -/
def State.answerCfgRat (s : State) (q : Rat) : State :=
  if s.cfg.cfgValid then s.ok (sendNumber s.params.numFormat q)
  else { s with draws := s.draws + 1 }.ok (drawNumber s.params.numFormat s.draws)

/-- The value of the `STATUS` register (10_state.md R30). -/
def State.status (s : State) : Word32 :=
  statusWord s.cfg.cfgValid s.cfg.demValid s.mod.active s.fdec.tag s.dem.rxBitcnt

/-- The registers `CSR.READ` can name, by their numbers (10_state.md R30). -/
inductive CsrName where
  | cfgSampleRate | cfgFreq0 | cfgFreq1 | cfgSymbolDuration | cfgRampDuration | cfgAmplitude
  | drvSps | drvRamp | drvN | drvBin0 | drvBin1
  | status | seqCtr | fdecLevel | fdecLen | fdecPayLevel | rxFill | rxShift
  deriving DecidableEq, Repr

/-- The register numbers (10_state.md R30). -/
def csrTable : List (Byte × CsrName) :=
  [(0x00#8, .cfgSampleRate), (0x01#8, .cfgFreq0), (0x02#8, .cfgFreq1), (0x03#8, .cfgSymbolDuration),
   (0x04#8, .cfgRampDuration), (0x05#8, .cfgAmplitude),
   (0x08#8, .drvSps), (0x09#8, .drvRamp), (0x0A#8, .drvN), (0x0B#8, .drvBin0), (0x0C#8, .drvBin1),
   (0x10#8, .status), (0x11#8, .seqCtr), (0x12#8, .fdecLevel), (0x13#8, .fdecLen), (0x14#8, .fdecPayLevel),
   (0x15#8, .rxFill), (0x16#8, .rxShift)]

/-- The register a number names, if any. -/
def csrOfNumber (n : Byte) : Option CsrName := (csrTable.find? (fun row => row.1 == n)).map (fun row => row.2)

/-- The answer of `CSR.READ` for each register (10_state.md R30). -/
def State.readCsr (s : State) : CsrName → State
  | .cfgSampleRate => s.answerCfgNat s.cfg.conf.sampleRate.num.toNat
  | .cfgFreq0 => s.answerCfgRat s.cfg.conf.freq0
  | .cfgFreq1 => s.answerCfgRat s.cfg.conf.freq1
  | .cfgSymbolDuration => s.answerCfgRat s.cfg.conf.symbolDuration
  | .cfgRampDuration => s.answerCfgRat s.cfg.conf.rampDuration
  | .cfgAmplitude => s.answerCfgRat s.cfg.conf.amplitude
  | .drvSps => s.answerCfgNat s.cfg.sps
  | .drvRamp => s.answerCfgNat s.cfg.rampN
  | .drvN => s.answerCfgNat s.cfg.fftN
  | .drvBin0 => s.answerCfgNat s.cfg.bin0
  | .drvBin1 => s.answerCfgNat s.cfg.bin1
  | .status => s.ok (.word s.status)
  | .seqCtr => s.ok (.word s.seqCtr)
  | .fdecLevel => s.answerNat s.fdec.buf.length
  | .fdecLen => s.answerNat s.fdec.len
  | .fdecPayLevel => s.answerNat s.fdec.pay.length
  | .rxFill => s.answerNat s.dem.rxFill
  | .rxShift => s.ok (.word (s.dem.rxShift.setWidth 32))

/-- `CSR.READ n` (40_config.md R140): the register's value, or 0 for a number that names none; allowed in every state, no side
effect. -/
def execCsrRead (n : Byte) (s : State) : Host.Outcome State Fault Refusal :=
  match csrOfNumber n with
  | some r => .next (s.readCsr r)
  | none => .next (s.ok (.word 0#32))

end Sys2Proof.Machine
end

