-- ==== Sys2Proof/Machine/Dispatch.lean ====
section
/-!
DEFINITION. One arm per operation, each a direct call of its meaning.
-/
namespace Sys2Proof.Machine

/-- The meaning of every operation (30_encoding.md R118). -/
def exec (i : Instr) (s : State) : Host.Outcome State Fault Refusal :=
  match i with
  | .coreReset => Sys2Proof.Machine.execCoreReset s
  | .cfgLoad c => Sys2Proof.Machine.execCfgLoad c s
  | .csrRead n => Sys2Proof.Machine.execCsrRead n s
  | .crcCalc data => Sys2Proof.Machine.execCrcCalc data s
  | .msgChecksum h payload => Sys2Proof.Machine.execMsgChecksum h payload s
  | .msgVerify m => Sys2Proof.Machine.execMsgVerify m s
  | .msgNewText sel seq payload => Sys2Proof.Machine.execMsgNewText sel seq payload s
  | .msgNewFile sel seq payload => Sys2Proof.Machine.execMsgNewFile sel seq payload s
  | .msgNewAck sel seq payload => Sys2Proof.Machine.execMsgNewAck sel seq payload s
  | .msgNewPing sel seq payload => Sys2Proof.Machine.execMsgNewPing sel seq payload s
  | .fencSer m => Sys2Proof.Machine.execFencSer m s
  | .fencWrap p => Sys2Proof.Machine.execFencWrap p s
  | .fencEncode m => Sys2Proof.Machine.execFencEncode m s
  | .modEncode bytes => Sys2Proof.Machine.execModEncode bytes s
  | .txSend m => Sys2Proof.Machine.execTxSend m s
  | .demInit => Sys2Proof.Machine.execDemInit s
  | .detClassify w => Sys2Proof.Machine.execDetClassify w s
  | .demDecode buf => Sys2Proof.Machine.execDemDecode buf s
  | .demPush chunk => Sys2Proof.Machine.execDemPush chunk s
  | .fdecInit => Sys2Proof.Machine.execFdecInit s
  | .fdecFeed chunk => Sys2Proof.Machine.execFdecFeed chunk s
  | .fdecDeser text => Sys2Proof.Machine.execFdecDeser text s
  | .rxRecv count => Sys2Proof.Machine.execRxRecv count s

end Sys2Proof.Machine
end

