-- ==== Sys2Proof/Machine/Fetch.lean ====
section
/-!
DEFINITION. Taking a request from `cmd_in`, and the moves of a schedule that are not the taking of a request (20_memory.md R62, R63,
60_exceptions.md R318). `Step.lean` only calls what stands here.
-/
namespace Sys2Proof.Machine

/-- A request can be served now: its code names no operation, or an operation that does not have to wait for a busy unit. -/
def State.ready (s : State) (r : Request) : Bool :=
  match decodeOpcode r.code with
  | some op => !s.opMustWait op
  | none => true

/-- The status of a request that is not an operation (60_exceptions.md R306). -/
def decodeErrorStatus : DecodeError → Status
  | .illegalOp code => .illegalOp code
  | .badOperand _ => .badOperand

/-- Refuse a request that is not an operation: `BadOperand` stands in the order of the answers of its unit (20_memory.md R62). -/
def State.refuseDecode (s : State) : DecodeError → State
  | .illegalOp code => s.refuse (decodeErrorStatus (.illegalOp code))
  | .badOperand op => s.refuseFor op (decodeErrorStatus (.badOperand op))

/-- Serve one request: the operation it decodes to, or the refusal. -/
def State.serve (s : State) (r : Request) : Host.Outcome State Fault Refusal :=
  match decode r with
  | .ok i => exec i s
  | .error e => .next (s.refuseDecode e)

/-- The request is a `CORE.RESET`: it "is accepted at any time" (70_reset_and_hazards.md R332) and never refused (60_exceptions.md
R311). -/
def isCoreReset (r : Request) : Bool := decodeOpcode r.code == some .coreReset

/-- Take a request from `cmd_in` and serve it, if there is one that can be taken. `cmd_in` is taken in the order sent (20_memory.md R63),
so requests to one unit are performed in the order received (70_reset_and_hazards.md R340), and a request that waits holds back
those behind it (log 20), all but a `CORE.RESET`: it is taken past the request that waits, and those not yet taken "stay queued and
are taken after reset" (R331, R332; log 39). -/
def State.serveNext (s : State) : Option (Host.Outcome State Fault Refusal) :=
  match s.cmdIn with
  | [] => none
  | r :: rest =>
    if s.ready r then some ({ s with cmdIn := rest }.serve r)
    else (rest.find? isCoreReset).map (fun q => { s with cmdIn := r :: rest.eraseP isCoreReset }.serve q)

/-- One atomic step of DEM in the core: whichever operation is in progress. -/
def State.demStep (s : State) : State :=
  match s.dem.op with
  | some (.push _ _) => s.demConsume
  | some (.decode _ _) => s.demConsume
  | some (.classify _) => s.demConsume
  | some (.recv _ _) => s.recvConsume
  | none => s

/-- DEM goes on with the operation in progress as far as it can. -/
def State.demFinish (s : State) : State :=
  match s.dem.op with
  | some (.push rest _) => s.demConsumeAll rest.length
  | some (.decode rest _) => s.demConsumeAll rest.length
  | some (.classify _) => s.demConsumeAll 1
  | some (.recv left _) => s.recvConsumeAll (Nat.min left s.pcmIn.length)
  | none => s

/-- FDEC goes on with the operation in progress to its end. -/
def State.feedFinish (s : State) : State :=
  match s.fdec.op with
  | some op => s.feedConsumeAll op.rest.length
  | none => s

/-- Every unit goes on with its operation in progress; where there is none nothing happens, and the core idles. -/
def State.finishAll (s : State) : State := s.modFinish.demFinish.feedFinish

/-- One turn of the schedule. -/
def State.turn (s : State) : Turn → Host.Outcome State Fault Refusal
  | .serve => (s.serveNext).getD (.next s)
  | .mod => .next s.modStep
  | .dem => .next s.demStep
  | .fdec => .next s.feedConsume
  | .request r => .next { s with cmdIn := s.cmdIn ++ [r] }
  | .sample x => .next { s with pcmIn := s.pcmIn ++ [x] }
  | .time t => .next { s with timeIn := t }

/-- A request put where the next step takes it: at the front of `cmd_in`, with the turn that serves it if turns are scheduled,
and with no operation in progress that it would have to wait for (logs 15, 22). -/
def State.offer (s : State) (r : Request) : State :=
  let s' := { s with cmdIn := r :: s.cmdIn, sched := if s.sched.isEmpty then [] else .serve :: s.sched }
  if s.ready r then s'
  else { s' with dem := { s'.dem with op := none }, fdec := { s'.fdec with op := none } }

end Sys2Proof.Machine
end

