-- ==== Sys2Proof/Machine/Step.lean ====
section
/-!
DEFINITION. One step of the core: the next turn of the schedule; with no turn left, the request on `cmd_in` that can be taken;
with none to take, the operations in progress go on as far as they can (logs 1, 21).
-/
namespace Sys2Proof.Machine

/-- One step. -/
def step (s : State) : Host.Outcome State Fault Refusal :=
  match s.sched with
  | t :: rest => { s with sched := rest }.turn t
  | [] => (s.serveNext).getD (.next s.finishAll)

/-- The operation of code `w` with all operands zero stored where the next step takes it. -/
def State.withFetchWord (s : State) (_nbits w : Nat) : State := s.offer (requestOfWord w)

end Sys2Proof.Machine
end

