-- ==== Sys2Proof/Safety.lean ====
section
/-!
DEFINITION. What a sound state is, in the terms the statements use: the invariants of 10_state.md R23 to R25, 20_memory.md R61 and R80,
44_frame_decoder.md R260; and the real-number formulas of 41_modulator.md R151 and 42_demodulator.md R173 that the exact arithmetic of the
machine is held against.
-/
namespace Sys2Proof.Machine

/-! Sound parameters and configurations. -/

/-- The ranges of 92_eei_decisions.md D37 that are numbers: `CAP ≥ 16`, `0 ≤ EPS_RX < 1`. -/
structure ParamsLegal (p : Params) : Prop where
  cap : 16 ≤ p.cap
  epsRx : 0 ≤ p.epsRx ∧ p.epsRx < 1

/-- The conditions of checks 1 to 6 (40_config.md R131). -/
structure BaseChecks (c : ModConfig) : Prop where
  sampleRate : isInteger c.sampleRate = true ∧ 0 < c.sampleRate
  freq0 : 0 < c.freq0 ∧ c.freq0 < c.sampleRate / 2
  freq1 : 0 < c.freq1 ∧ c.freq1 < c.sampleRate / 2
  distinct : c.freq0 ≠ c.freq1
  symbolDuration : 0 < c.symbolDuration
  rampDuration : 0 ≤ c.rampDuration ∧ c.rampDuration ≤ c.symbolDuration / 2
  amplitude : 0 < c.amplitude ∧ c.amplitude ≤ 1

/-- While `cfg_valid = 1` the derived registers are those of the six configuration registers, all of which passed their checks
(20_memory.md R80, 40_config.md R131, R133). -/
structure ConfigSound (r : CfgRegs) : Prop where
  base : BaseChecks r.conf
  sps : r.sps = roundHalfUp (r.conf.sampleRate * r.conf.symbolDuration)
  rampN : r.rampN = roundHalfUp (r.conf.sampleRate * r.conf.rampDuration)
  symbol : 1 ≤ r.sps
  ramps : 2 * r.rampN ≤ r.sps
  fftN : r.fftN = pow2AtLeast r.sps
  bin0 : r.bin0 = targetBin r.conf.freq0 r.conf.sampleRate r.fftN
  bin1 : r.bin1 = targetBin r.conf.freq1 r.conf.sampleRate r.fftN
  fftPlan : r.fftPlan = r.fftN

/-- While `dem_valid = 1` the demodulator checks hold too (40_config.md R132). -/
structure DemodSound (nMax : Option Nat) (r : CfgRegs) : Prop where
  size : ∀ m, nMax = some m → r.fftN ≤ m
  bins : 2 * r.bin0 ≤ r.fftN ∧ 2 * r.bin1 ≤ r.fftN
  apart : r.bin0 + 6 < r.bin1 ∨ r.bin1 + 6 < r.bin0

/-- The condition of check number `k` of 40_config.md R131 and R132 on the operands of `CFG.LOAD`, with the derived values written
out (R133). -/
def conditionHolds (nMax : Option Nat) (c : ModConfig) (k : Nat) : Prop :=
  let sps := roundHalfUp (c.sampleRate * c.symbolDuration)
  let rampN := roundHalfUp (c.sampleRate * c.rampDuration)
  let fftN := pow2AtLeast sps
  let bin0 := targetBin c.freq0 c.sampleRate fftN
  let bin1 := targetBin c.freq1 c.sampleRate fftN
  match k with
  | 1 => isInteger c.sampleRate = true ∧ 0 < c.sampleRate
  | 2 => (0 < c.freq0 ∧ c.freq0 < c.sampleRate / 2) ∧ (0 < c.freq1 ∧ c.freq1 < c.sampleRate / 2)
  | 3 => c.freq0 ≠ c.freq1
  | 4 => 0 < c.symbolDuration
  | 5 => 0 ≤ c.rampDuration ∧ c.rampDuration ≤ c.symbolDuration / 2
  | 6 => 0 < c.amplitude ∧ c.amplitude ≤ 1
  | 7 => 1 ≤ sps
  | 8 => 2 * rampN ≤ sps
  | 9 => ∀ m, nMax = some m → fftN ≤ m
  | 10 => 2 * bin0 ≤ fftN ∧ 2 * bin1 ≤ fftN
  | 11 => bin0 + 6 < bin1 ∨ bin1 + 6 < bin0
  | _ => True

/-- Every condition up to and with number `k` holds. -/
def conditionsHoldUpTo (nMax : Option Nat) (c : ModConfig) (k : Nat) : Prop :=
  ∀ j, 1 ≤ j → j ≤ k → conditionHolds nMax c j

/-! Sound units. -/

/-- The configuration unit. -/
structure CfgInv (p : Params) (r : CfgRegs) : Prop where
  config : r.cfgValid = true → ConfigSound r
  demod : r.demValid = true → r.cfgValid = true ∧ DemodSound p.nMax r

/-- `tx_bytes` items that end with the one item marked `last` (30_encoding.md R120). -/
def EndsWithLast (tx : List (Byte × Bool)) : Prop := ∃ bytes : List Byte, bytes ≠ [] ∧ tx = txItems bytes

/-- The modulator (10_state.md R24): the counters stay in their ranges, an idle modulator holds nothing and owes no answer, and an
active one has the rest of its call on `tx_bytes`. -/
structure ModInv (c : CfgRegs) (m : ModRegs) : Prop where
  idle : m.active = false → m.bitIdx = 0 ∧ m.sampIdx = 0 ∧ m.held = false ∧ m.tx = [] ∧ m.late = []
  configured : m.active = true → c.cfgValid = true
  counters : m.held = true → m.bitIdx < 8 ∧ m.sampIdx < c.sps
  between : m.active = true → m.held = false → m.bitIdx = 0 ∧ m.sampIdx = 0 ∧ EndsWithLast m.tx
  lastByte : m.held = true → m.isLast = true → m.tx = []
  moreBytes : m.held = true → m.isLast = false → EndsWithLast m.tx

/-- What is left of a DEM operation in progress is not nothing: it would have answered. -/
def demOpPending : Option DemOp → Prop
  | none => True
  | some (.push rest _) => rest ≠ []
  | some (.decode rest _) => rest ≠ []
  | some (.classify _) => True
  | some (.recv left _) => left ≠ 0

/-- The demodulator (10_state.md R25, 20_memory.md R61). -/
structure DemInv (c : CfgRegs) (d : DemRegs) : Prop where
  bitcnt : d.rxBitcnt < 8
  shift : d.rxShift.toNat < 2 ^ d.rxBitcnt
  window : d.rxWin.length = c.sps
  fill : c.demValid = true → d.rxFill < c.sps
  configured : d.op.isSome = true → c.demValid = true
  pending : demOpPending d.op
  classified : ∀ w, d.op = some (.classify w) → w.length = c.sps

/-- A byte string with eight consecutive preamble bytes in it. -/
def HasPreamble (b : List Byte) : Prop := List.replicate Config.preambleLen Config.preambleByte <:+: b

/-- The frame decoder: clauses (a) to (f) of 44_frame_decoder.md R260. -/
structure FdecInv (p : Params) (r : FdecRegs) : Prop where
  noPreamble : r.tag = .wp → ¬ HasPreamble r.buf
  shortBuf : r.tag = .ws ∨ r.tag = .rl ∨ r.tag = .we → r.buf.length ≤ 1
  emptyBuf : r.tag = .rm → r.buf = []
  cleared : r.tag = .wp ∨ r.tag = .ws ∨ r.tag = .rl → r.len = 0 ∧ r.pay = []
  reading : r.tag = .rm → 1 ≤ r.len ∧ r.len ≤ Config.maxLen ∧ r.pay.length < r.len
  waitingEnd : r.tag = .we → 1 ≤ r.len ∧ r.len ≤ Config.maxLen ∧ r.pay.length = r.len
  capped : r.buf.length ≤ p.cap

/-- The FDEC.FEED in progress has bytes left. -/
def feedPending : Option FeedOp → Prop
  | none => True
  | some op => op.rest ≠ []

/-- A sound state. -/
structure Inv (s : State) : Prop where
  params : ParamsLegal s.params
  cfg : CfgInv s.params s.cfg
  mod : ModInv s.cfg s.mod
  dem : DemInv s.cfg s.dem
  fdec : FdecInv s.params s.fdec
  feed : feedPending s.fdec.op
  rxBytes : s.rxBytes = []

/-- No operation is in progress. -/
def Quiet (s : State) : Prop := s.mod.active = false ∧ s.dem.op = none ∧ s.fdec.op = none

/-- A clean run so far: every answer given is `Ok`. -/
def Clean (s : State) : Prop := ∀ r ∈ s.rspOut, r.status = .ok

/-! The real-number formulas. -/

/-- The exact value of a finite sample as a real number. -/
noncomputable def realSample (x : Sample) : ℝ := (f32Value x : ℝ)

/-- `y` of 41_modulator.md R151 as a real number: `amplitude * sin(2 * pi * f * i / sample_rate) * g(j, i)`. -/
noncomputable def realOutput (c : CfgRegs) (bit : Bool) (i : Nat) (first last : Bool) : ℝ :=
  (c.conf.amplitude : ℝ)
    * Real.sin (2 * Real.pi * (toneOf c.conf bit : ℝ) * (i : ℝ) / (c.conf.sampleRate : ℝ))
    * ((rampUp c.rampN i first : ℝ) * (rampDown c.sps c.rampN i last : ℝ))

/-- `X[k]` of 42_demodulator.md R173: the unnormalised transform of size `n` of the zero-padded window. -/
noncomputable def realTransform (n : Nat) (w : List Sample) (k : Nat) : ℂ :=
  ∑ j ∈ Finset.range n, ((realSample (w.getD j 0#32) : ℝ) : ℂ) * Complex.exp (-(2 * Real.pi * Complex.I * k * j / n))

/-- `P[k]` of 42_demodulator.md R173, R175: the squared magnitude. -/
noncomputable def realPower (n : Nat) (w : List Sample) (k : Nat) : ℝ :=
  (realTransform n w k).re ^ 2 + (realTransform n w k).im ^ 2

/-- A bin of the search range of target `bin` (42_demodulator.md R176): within three of it and inside `[0, n)`. -/
def inSearchRange (n bin k : Nat) : Prop := bin ≤ k + Config.searchHalfWidth ∧ k ≤ bin + Config.searchHalfWidth ∧ k < n

/-- `peak_1 > peak_0` (42_demodulator.md R176, R177): some power near the mark is above every power near the space. -/
def MarkIsStronger (n bin0 bin1 : Nat) (w : List Sample) : Prop :=
  ∃ k1, inSearchRange n bin1 k1 ∧ ∀ k0, inSearchRange n bin0 k0 → realPower n w k0 < realPower n w k1

end Sys2Proof.Machine
end

