-- ==== Sys2Proof/Certificates/Slice0/Obligations.lean ====
section
/-!
DEFINITION. The statements for the provers. Each formalises rules of spec/; where a statement rests on a choice of the model, its
docstring names the log entry.
-/
open Sys2Proof Sys2Proof.Machine

/-! Requests, decoding and the step. -/

/-- 30_encoding.md R119, R120: one code of every unit group, written out, with its typed operands. -/
def Obligations.TableCodesDecode : Prop :=
  decode { code := 0x00#8, operands := [] } = .ok .coreReset ∧
  decode { code := 0x02#8, operands := [.register 0x10#8] } = .ok (.csrRead 0x10#8) ∧
  decode { code := 0x10#8, operands := [.bytes [0x61#8]] } = .ok (.crcCalc [0x61#8]) ∧
  decode { code := 0x14#8, operands := [.seqSel false, .seq 5#32, .bytes [0x00#8, 0xFF#8]] } =
    .ok (.msgNewFile false 5#32 [0x00#8, 0xFF#8]) ∧
  decode { code := 0x21#8, operands := [.bytes []] } = .ok (.fencWrap []) ∧
  decode { code := 0x30#8, operands := [.bytes [0xA5#8]] } = .ok (.modEncode [0xA5#8]) ∧
  decode { code := 0x43#8, operands := [.samples [0x3F800000#32]] } = .ok (.demPush [0x3F800000#32]) ∧
  decode { code := 0x52#8, operands := [.bytes [0x7B#8]] } = .ok (.fdecDeser [0x7B#8]) ∧
  decode { code := 0x60#8, operands := [.count 543312] } = .ok (.rxRecv 543312)

/-- Decoding inverts encoding on every well-formed instruction, and a request that decodes is the encoding of the instruction it
decodes to (30_encoding.md R119, R120); CORE.RESET, which is never refused (60_exceptions.md R311), takes no notice of operands
(log 15). -/
def Obligations.DecodeInvertsEncode : Prop :=
  (∀ i : Instr, i.wellFormed = true → decode (encode i) = .ok i) ∧
  (∀ (r : Request) (i : Instr), decode r = .ok i →
    i.wellFormed = true ∧ r.code = (encode i).code ∧ (i ≠ .coreReset → r = encode i))

/-- 30_encoding.md R116: a code that is none of the 23 is answered with `IllegalOp` (kind 7, the code as cause, 60_exceptions.md R300) and
nothing else changes. -/
def Obligations.IllegalCodeIsAnswered : Prop :=
  ∀ (s : State) (r : Request) (rest : List Request),
    s.sched = [] → s.cmdIn = r :: rest →
    r.code ∉ [0x00#8, 0x01#8, 0x02#8, 0x10#8, 0x11#8, 0x12#8, 0x13#8, 0x14#8, 0x15#8, 0x16#8, 0x20#8, 0x21#8, 0x22#8,
      0x30#8, 0x31#8, 0x40#8, 0x41#8, 0x42#8, 0x43#8, 0x50#8, 0x51#8, 0x52#8, 0x60#8] →
    step s = .next { s with
      cmdIn := rest, rspOut := s.rspOut ++ [{ status := .illegalOp r.code, value := .none }] } ∧
    (Status.illegalOp r.code).kind = 0x07#8 ∧ (Status.illegalOp r.code).cause.toNat = r.code.toNat

/-- The step runs the operation that the request at the front of `cmd_in` decodes to, taking the request and nothing else (a turn
that serves, if turns are scheduled). -/
def Obligations.StepRunsDecodedRequest : Prop :=
  ∀ (s : State) (r : Request) (rest : List Request) (i : Instr),
    s.cmdIn = r :: rest → decode r = .ok i → s.mustWait i = false →
    (s.sched = [] → step s = exec i { s with cmdIn := rest }) ∧
    (∀ ts, s.sched = .serve :: ts → step s = exec i { s with cmdIn := rest, sched := ts })

/-- Requests are taken in the order sent (20_memory.md R63, 70_reset_and_hazards.md R340): the request at the front of `cmd_in` is taken
and served unless its unit is busy. While its unit is busy it stays at the front, and those behind it stay behind it; no step
changes the configuration unit then, but one that takes a CORE.RESET. A CORE.RESET "is accepted at any time" (R332): the first one
behind a request that waits is taken past those before it, which "stay queued and are taken after reset" (R331), in every state
and whatever the operation in progress waits for. That a request to a busy DEM or FDEC waits and holds back the others is the
model's choice (logs 20, 38), that a CORE.RESET passes just those that wait is deduced (log 39), the schedule is the model's (log 1). -/
def Obligations.WaitingRequestsKeepTheirOrder : Prop :=
  ∀ (s : State) (r : Request) (rest : List Request), s.cmdIn = r :: rest →
    (s.ready r = false ↔ ∃ op, decodeOpcode r.code = some op ∧
      ((op ∈ [Opcode.demInit, .detClassify, .demDecode, .demPush] ∧ s.dem.op ≠ none) ∨
        (op ∈ [Opcode.fdecInit, .fdecFeed, .fdecDeser] ∧
          (s.fdec.op ≠ none ∨ ∃ left sent, s.dem.op = some (.recv left sent))) ∨
        (op = .rxRecv ∧ (s.dem.op ≠ none ∨ s.fdec.op ≠ none)))) ∧
    (s.ready r = true →
      (s.sched = [] → step s = { s with cmdIn := rest }.serve r) ∧
      (∀ ts, s.sched = .serve :: ts → step s = { s with cmdIn := rest, sched := ts }.serve r)) ∧
    (s.ready r = false → (∀ q ∈ rest, q.code ≠ 0x00#8) →
      ∀ t, step s = .next t → t.cfg = s.cfg ∧ ∃ more, t.cmdIn = r :: rest ++ more) ∧
    (s.ready r = false → ∀ pre q post, rest = pre ++ q :: post → (∀ x ∈ pre, x.code ≠ 0x00#8) → q.code = 0x00#8 →
      (s.sched = [] → step s = exec .coreReset { s with cmdIn := r :: (pre ++ post) }) ∧
      (∀ ts, s.sched = .serve :: ts → step s = exec .coreReset { s with cmdIn := r :: (pre ++ post), sched := ts }) ∧
      (∀ u ts, s.sched = u :: ts → u ≠ .serve →
        ∀ t, step s = .next t → t.cfg = s.cfg ∧ ∃ more, t.cmdIn = r :: rest ++ more))

/-- A request to a busy unit goes back to the front of `cmd_in` and changes nothing else (60_exceptions.md R318; log 20): where a request
waits. -/
def Obligations.BusyUnitRequestWaits : Prop :=
  ∀ (i : Instr) (s : State), s.mustWait i = true → exec i s = .next { s with cmdIn := encode i :: s.cmdIn }

/-- A core with no operation in progress and no request does nothing (70_reset_and_hazards.md R331, 60_exceptions.md R320; log 21). -/
def Obligations.IdleCoreDoesNothing : Prop :=
  ∀ s : State, Quiet s → s.sched = [] → s.cmdIn = [] → step s = .next s

/-- What the outside does in a turn reaches one port and nothing else (20_memory.md R62, R63; log 1). -/
def Obligations.OutsideTurnsTouchOnePort : Prop :=
  ∀ (s : State) (ts : List Turn),
    (∀ r, s.sched = .request r :: ts → step s = .next { s with sched := ts, cmdIn := s.cmdIn ++ [r] }) ∧
    (∀ x, s.sched = .sample x :: ts → step s = .next { s with sched := ts, pcmIn := s.pcmIn ++ [x] }) ∧
    (∀ t, s.sched = .time t :: ts → step s = .next { s with sched := ts, timeIn := t })

/-! Reset and invariants. -/

/-- The reset state is sound, and holds the values 70_reset_and_hazards.md R331 states. -/
def Obligations.ResetStateIsSound : Prop :=
  Inv State.reset ∧ State.reset.status = 0#32 ∧ State.reset.seqCtr = 0#32 ∧
  State.reset.cfg.cfgValid = false ∧ State.reset.cfg.demValid = false ∧
  State.reset.mod.active = false ∧ State.reset.mod.bitIdx = 0 ∧ State.reset.mod.sampIdx = 0 ∧
  State.reset.dem.rxFill = 0 ∧ State.reset.dem.rxShift = 0#8 ∧ State.reset.dem.rxBitcnt = 0 ∧
  State.reset.fdec.tag = .wp ∧ State.reset.fdec.buf = [] ∧ State.reset.fdec.len = 0 ∧ State.reset.fdec.pay = []

/-- Every step keeps a sound state sound: the ranges of 10_state.md R23 to R25, the consistency of 20_memory.md R80, the decoder invariants
of 44_frame_decoder.md R260 (a) to (f), the buffer bounds of 20_memory.md R61. -/
def Obligations.StepKeepsInvariant : Prop :=
  ∀ s t : State, Inv s → step s = .next t → Inv t

/-- No step writes an implementation parameter (10_state.md R20; log 2), and a step that changes the configuration unit is one that takes
a CFG.LOAD from the front of `cmd_in`, or a CORE.RESET from any place on it (20_memory.md R80; log 39): not a turn, not the finishing of an operation in progress, not
another operation. -/
def Obligations.OnlyLoadAndResetWriteConfig : Prop :=
  (∀ s t : State, step s = .next t → t.params = s.params) ∧
  (∀ s t : State, step s = .next t → t.cfg ≠ s.cfg →
    (s.sched = [] ∨ ∃ ts, s.sched = .serve :: ts) ∧
    ∃ pre r post, s.cmdIn = pre ++ r :: post ∧ t.cmdIn = pre ++ post ∧
      (decode r = .ok .coreReset ∨ (pre = [] ∧ ∃ c, decode r = .ok (.cfgLoad c)))) ∧
  (∀ (i : Instr) (s t : State), exec i s = .next t → (∀ c, i ≠ .cfgLoad c) → i ≠ .coreReset → t.cfg = s.cfg)

/-- 10_state.md R21: an operation of the transmit side leaves DEM, FDEC and the receive ports as they are; an operation of the receive
side leaves MOD, `seq_ctr` and `pcm_out`. So do their turns; and where nothing is served and the operations in progress go on,
what comes of each side depends on that side alone. (The schedule is the model's, log 1.) -/
def Obligations.PipelinesShareNoState : Prop :=
  (∀ (i : Instr) (s t : State), exec i s = .next t →
    ((∃ b, i = .modEncode b) ∨ (∃ m, i = .txSend m) ∨ (∃ m, i = .fencSer m) ∨ (∃ p, i = .fencWrap p) ∨ (∃ m, i = .fencEncode m)) →
    t.dem = s.dem ∧ t.fdec = s.fdec ∧ t.rxBytes = s.rxBytes ∧ t.pcmIn = s.pcmIn ∧ t.msgOut = s.msgOut ∧
    t.seqCtr = s.seqCtr ∧ t.cfg = s.cfg ∧ t.draws = s.draws ∧ t.timeIn = s.timeIn ∧ t.dbgOut = s.dbgOut ∧ t.cmdIn = s.cmdIn) ∧
  (∀ (i : Instr) (s t : State), exec i s = .next t →
    (i = .demInit ∨ (∃ w, i = .detClassify w) ∨ (∃ w, i = .demDecode w) ∨ (∃ w, i = .demPush w) ∨
      i = .fdecInit ∨ (∃ b, i = .fdecFeed b) ∨ (∃ b, i = .fdecDeser b) ∨ (∃ n, i = .rxRecv n)) →
    t.mod = s.mod ∧ t.seqCtr = s.seqCtr ∧ t.pcmOut = s.pcmOut ∧ t.cfg = s.cfg ∧ t.draws = s.draws ∧ t.timeIn = s.timeIn) ∧
  (∀ (s t : State) (ts : List Turn), step s = .next t →
    (s.sched = .mod :: ts →
      t.dem = s.dem ∧ t.fdec = s.fdec ∧ t.rxBytes = s.rxBytes ∧ t.pcmIn = s.pcmIn ∧ t.msgOut = s.msgOut ∧ t.seqCtr = s.seqCtr ∧
      t.cfg = s.cfg ∧ t.draws = s.draws ∧ t.timeIn = s.timeIn ∧ t.dbgOut = s.dbgOut ∧ t.cmdIn = s.cmdIn) ∧
    (s.sched = .dem :: ts ∨ s.sched = .fdec :: ts →
      t.mod = s.mod ∧ t.seqCtr = s.seqCtr ∧ t.pcmOut = s.pcmOut ∧ t.cfg = s.cfg ∧ t.draws = s.draws ∧ t.timeIn = s.timeIn ∧
      t.cmdIn = s.cmdIn)) ∧
  (∀ s s' t t' : State, step s = .next t → step s' = .next t' → s.params = s'.params → s.cfg = s'.cfg →
    s.sched = [] → s'.sched = [] →
    (∀ r rest, s.cmdIn = r :: rest → s.ready r = false ∧ ∀ q ∈ rest, q.code ≠ 0x00#8) →
    (∀ r rest, s'.cmdIn = r :: rest → s'.ready r = false ∧ ∀ q ∈ rest, q.code ≠ 0x00#8) →
    (s.mod = s'.mod → s.pcmOut = s'.pcmOut → t.mod = t'.mod ∧ t.pcmOut = t'.pcmOut) ∧
    (s.dem = s'.dem → s.fdec = s'.fdec → s.rxBytes = s'.rxBytes → s.pcmIn = s'.pcmIn → s.msgOut = s'.msgOut → s.dbgOut = s'.dbgOut →
      t.dem = t'.dem ∧ t.fdec = t'.fdec ∧ t.rxBytes = t'.rxBytes ∧ t.pcmIn = t'.pcmIn ∧ t.msgOut = t'.msgOut ∧ t.dbgOut = t'.dbgOut))

/-! System operations. -/

/-- CORE.RESET (40_config.md R136, 70_reset_and_hazards.md R331, R332), in every state: the values R136 lists, the internal streams
emptied, the operations in progress abandoned without a status, nothing recalled from a port; after the refusals that waited for an
abandoned call (log 37), the one answer is its own `Ok`. The values of the registers that become unspecified are the model's choice
and not stated here (logs 3, 4, 5, 6); that `time_in`, the parameters, the schedule and the counter of draws stay is log 24. -/
def Obligations.CoreResetCompletes : Prop :=
  ∀ s : State, ∃ t : State, exec .coreReset s = .next t ∧
    t.cfg.cfgValid = false ∧ t.cfg.demValid = false ∧ t.mod.active = false ∧ t.mod.bitIdx = 0 ∧ t.mod.sampIdx = 0 ∧
    t.mod.tx = [] ∧ t.dem.rxFill = 0 ∧ t.dem.rxShift = 0#8 ∧ t.dem.rxBitcnt = 0 ∧ t.seqCtr = 0#32 ∧
    t.fdec.tag = .wp ∧ t.fdec.buf = [] ∧ t.fdec.len = 0 ∧ t.fdec.pay = [] ∧ t.rxBytes = [] ∧ Quiet t ∧
    t.mod.late = [] ∧ t.rspOut = s.rspOut ++ s.mod.late ++ [{ status := .ok, value := .none }] ∧ t.pcmOut = s.pcmOut ∧ t.msgOut = s.msgOut ∧
    t.dbgOut = s.dbgOut ∧ t.cmdIn = s.cmdIn ∧ t.pcmIn = s.pcmIn ∧ t.timeIn = s.timeIn ∧ t.params = s.params ∧
    t.sched = s.sched ∧ t.draws = s.draws

/-- CFG.LOAD of operands that, as they arrive in the number format (log 9), meet all eleven conditions, with MOD and DEM idle
(40_config.md R130, R133, R137): the whole next state. The model's choices in it: the unspecified elements of `rx_win` are free
values of the next draw (log 5), and `fft_plan` is the size it is built for (log 6). -/
def Obligations.CfgLoadCompletes : Prop :=
  ∀ (s : State) (operands c : ModConfig), c = receiveConfig s.params.numFormat operands →
    s.mod.active = false → s.dem.op = none → conditionsHoldUpTo s.params.nMax c 11 →
    exec (.cfgLoad operands) s = .next { s with
      cfg :=
        { conf := c
          sps := roundHalfUp (c.sampleRate * c.symbolDuration)
          rampN := roundHalfUp (c.sampleRate * c.rampDuration)
          fftN := pow2AtLeast (roundHalfUp (c.sampleRate * c.symbolDuration))
          bin0 := targetBin c.freq0 c.sampleRate (pow2AtLeast (roundHalfUp (c.sampleRate * c.symbolDuration)))
          bin1 := targetBin c.freq1 c.sampleRate (pow2AtLeast (roundHalfUp (c.sampleRate * c.symbolDuration)))
          fftPlan := pow2AtLeast (roundHalfUp (c.sampleRate * c.symbolDuration))
          cfgValid := true
          demValid := true }
      dem := { s.dem with
        rxWin := unspecifiedWindow s.dem.draws (roundHalfUp (c.sampleRate * c.symbolDuration))
        rxFill := 0, rxShift := 0#8, rxBitcnt := 0, draws := s.dem.draws + 1 }
      rspOut := s.rspOut ++ [{ status := .ok, value := .none }] }

/-- CFG.LOAD of operands whose first failed check has number `k` (40_config.md R130 to R132, 60_exceptions.md R311, R312;
93_implementation_defined.md I12): `ConfigError` with cause `k`; the six registers overwritten, each derived register computed if
its step came before the failing one and as it was if not, the flags showing how far it got, and outside the configuration unit
nothing changed but the size of `rx_win`, which follows `sps` (log 5). The operands are as they arrive in the number format (log 9),
`fft_plan` is the size it is built for (log 6). Number 10 is never the first to fail (BinsStayBelowNyquist). -/
def Obligations.CfgLoadReportsFirstFailedCheck : Prop :=
  ∀ (s : State) (operands c : ModConfig) (k : Nat), c = receiveConfig s.params.numFormat operands →
    s.mod.active = false → s.dem.op = none → 1 ≤ k → k ≤ 11 →
    conditionsHoldUpTo s.params.nMax c (k - 1) → ¬ conditionHolds s.params.nMax c k →
    ∃ (r : CfgRegs) (d : DemRegs) (check : ConfigCheck),
      exec (.cfgLoad operands) s = .next { s with
        cfg := r, dem := d, rspOut := s.rspOut ++ [{ status := .configError check, value := .none }] } ∧
      (Status.configError check).kind = 0x01#8 ∧ (Status.configError check).cause.toNat = k ∧
      r.conf = c ∧ r.demValid = false ∧ (r.cfgValid = true ↔ 9 ≤ k) ∧
      (k ≤ 6 → r.sps = s.cfg.sps ∧ r.rampN = s.cfg.rampN) ∧
      (7 ≤ k → r.sps = roundHalfUp (c.sampleRate * c.symbolDuration) ∧ r.rampN = roundHalfUp (c.sampleRate * c.rampDuration)) ∧
      (k ≤ 8 → r.fftN = s.cfg.fftN ∧ r.bin0 = s.cfg.bin0 ∧ r.bin1 = s.cfg.bin1 ∧ r.fftPlan = s.cfg.fftPlan) ∧
      (9 ≤ k → r.fftN = pow2AtLeast r.sps ∧ r.bin0 = targetBin c.freq0 c.sampleRate r.fftN ∧
        r.bin1 = targetBin c.freq1 c.sampleRate r.fftN ∧ r.fftPlan = r.fftN) ∧
      d = { s.dem with rxWin := d.rxWin, draws := d.draws } ∧ d.rxWin.length = r.sps ∧
      (∀ i, i < r.sps → i < s.dem.rxWin.length → d.rxWin[i]? = s.dem.rxWin[i]?) ∧
      (s.dem.rxWin.length = r.sps → d = s.dem)

/-- CFG.LOAD while MOD or a DEM operation is at work is answered `Busy` and changes nothing (40_config.md R134): where it is turned
away. -/
def Obligations.CfgLoadRefusedWhileBusy : Prop :=
  ∀ (s : State) (c : ModConfig), s.mod.active = true ∨ s.dem.op ≠ none →
    exec (.cfgLoad c) s = .next { s with rspOut := s.rspOut ++ [{ status := .busy, value := .none }] }

/-- `round` (00_scope.md R12) of a non-negative number is the nearest integer, and of two equally near ones the larger. -/
def Obligations.RoundIsNearestTieUp : Prop :=
  ∀ (x : Rat) (n : Nat), 0 ≤ x → (roundHalfUp x = n ↔ (n : Rat) - 1 / 2 ≤ x ∧ x < (n : Rat) + 1 / 2)

/-- `fft_n` (00_scope.md R8, 40_config.md R133, 10_state.md R23) is a power of two, at least `sps` and below twice `sps`. -/
def Obligations.FftSizeIsLeastPowerOfTwo : Prop :=
  ∀ n : Nat, 1 ≤ n →
    (∃ k, pow2AtLeast n = 2 ^ k) ∧ n ≤ pow2AtLeast n ∧ pow2AtLeast n < 2 * n ∧ ∀ k, n ≤ 2 ^ k → pow2AtLeast n ≤ 2 ^ k

/-- Check 10 cannot fail once the checks before it have passed (40_config.md R132). -/
def Obligations.BinsStayBelowNyquist : Prop :=
  ∀ (nMax : Option Nat) (c : ModConfig), conditionsHoldUpTo nMax c 8 → conditionHolds nMax c 10

/-- CSR.READ (40_config.md R140, 10_state.md R30) in every state and for every number: one answer `Ok`, no register changed; the value of every
register of the table; 0 for a number outside it. While `cfg_valid = 0` a configuration or derived register reads as the next draw,
whatever that is. The model's choices in it: the answers for registers 0x01 to 0x05 are in the number format, a rational where that is
the default (log 9), 0x00 is answered with its numerator (log 27), a number of `2^32` or more is a free value (log 8), the draws are
counted (log 7). -/
def Obligations.CsrReadCompletes : Prop :=
  ∀ (s : State) (n : Byte), ∃ (d : Nat) (v : Value),
    exec (.csrRead n) s = .next { s with draws := d, rspOut := s.rspOut ++ [{ status := .ok, value := v }] } ∧
    (s.cfg.cfgValid = true →
      (n = 0x00#8 → v = .word (word32OfNat s.cfg.conf.sampleRate.num.toNat)) ∧
      (n = 0x01#8 → v = sendNumber s.params.numFormat s.cfg.conf.freq0) ∧
      (n = 0x02#8 → v = sendNumber s.params.numFormat s.cfg.conf.freq1) ∧
      (n = 0x03#8 → v = sendNumber s.params.numFormat s.cfg.conf.symbolDuration) ∧
      (n = 0x04#8 → v = sendNumber s.params.numFormat s.cfg.conf.rampDuration) ∧
      (n = 0x05#8 → v = sendNumber s.params.numFormat s.cfg.conf.amplitude) ∧
      (n = 0x08#8 → v = .word (word32OfNat s.cfg.sps)) ∧ (n = 0x09#8 → v = .word (word32OfNat s.cfg.rampN)) ∧
      (n = 0x0A#8 → v = .word (word32OfNat s.cfg.fftN)) ∧ (n = 0x0B#8 → v = .word (word32OfNat s.cfg.bin0)) ∧
      (n = 0x0C#8 → v = .word (word32OfNat s.cfg.bin1)) ∧ d = s.draws) ∧
    (s.cfg.cfgValid = false →
      (n ∈ [0x00#8, 0x08#8, 0x09#8, 0x0A#8, 0x0B#8, 0x0C#8] → v = .word (Config.unspecifiedWord s.draws) ∧ d = s.draws + 1) ∧
      (n ∈ [0x01#8, 0x02#8, 0x03#8, 0x04#8, 0x05#8] → v = drawNumber s.params.numFormat s.draws ∧ d = s.draws + 1)) ∧
    (s.params.numFormat = .rational → ∀ q k, sendNumber s.params.numFormat q = .rational q ∧
      drawNumber s.params.numFormat k = .rational (Config.unspecifiedRat k)) ∧
    (n = 0x10#8 → v = .word (statusWord s.cfg.cfgValid s.cfg.demValid s.mod.active s.fdec.tag s.dem.rxBitcnt)) ∧
    (n = 0x11#8 → v = .word s.seqCtr) ∧
    (n = 0x12#8 → v = .word (word32OfNat s.fdec.buf.length)) ∧ (n = 0x13#8 → v = .word (word32OfNat s.fdec.len)) ∧
    (n = 0x14#8 → v = .word (word32OfNat s.fdec.pay.length)) ∧ (n = 0x15#8 → v = .word (word32OfNat s.dem.rxFill)) ∧
    (n = 0x16#8 → v = .word (s.dem.rxShift.setWidth 32)) ∧
    (n ∉ [0x00#8, 0x01#8, 0x02#8, 0x03#8, 0x04#8, 0x05#8, 0x08#8, 0x09#8, 0x0A#8, 0x0B#8, 0x0C#8, 0x10#8, 0x11#8, 0x12#8,
      0x13#8, 0x14#8, 0x15#8, 0x16#8] → v = .word 0#32) ∧
    (n ∉ [0x00#8, 0x01#8, 0x02#8, 0x03#8, 0x04#8, 0x05#8, 0x08#8, 0x09#8, 0x0A#8, 0x0B#8, 0x0C#8] → d = s.draws) ∧
    (∀ k, k < 2 ^ 32 → (word32OfNat k).toNat = k)

/-- The layout of the `STATUS` word (10_state.md R30). -/
def Obligations.StatusWordLayout : Prop :=
  ∀ (cv dv ma : Bool) (tag : FdecTag) (k : Nat), k < 8 →
    (statusWord cv dv ma tag k).getLsbD 0 = cv ∧ (statusWord cv dv ma tag k).getLsbD 1 = dv ∧
    (statusWord cv dv ma tag k).getLsbD 2 = ma ∧
    ((statusWord cv dv ma tag k).extractLsb' 3 3).toNat =
      (match tag with | .wp => 0 | .ws => 1 | .rl => 2 | .rm => 3 | .we => 4) ∧
    ((statusWord cv dv ma tag k).extractLsb' 6 3).toNat = k ∧ (statusWord cv dv ma tag k).toNat < 2 ^ 9

/-! CRC and Messages. -/

/-- CRC.CALC, MSG.CHECKSUM and MSG.VERIFY complete in every state and change nothing but `rsp_out` (43_frame_encoder.md R200, R205, R206,
R219). -/
def Obligations.ChecksumOperationsComplete : Prop :=
  ∀ (s : State) (data payload : List Byte) (h : Header) (m : Message),
    exec (.crcCalc data) s = .next { s with
      rspOut := s.rspOut ++ [{ status := .ok, value := .word (crc32 data) }] } ∧
    exec (.msgChecksum h payload) s = .next { s with
      rspOut := s.rspOut ++ [{ status := .ok, value := .word (crc32 (serHdrText s.params.textFormat h ++ payload)) }] } ∧
    exec (.msgVerify m) s = .next { s with
      rspOut := s.rspOut ++
        [{ status := .ok, value := .bit (decide (m.checksum = crc32 (serHdrText s.params.textFormat m.header ++ m.payload))) }] }

/-- 43_frame_encoder.md R202: the loop runs over a concatenation piece by piece; and the table form of one byte, with `T[i]` the result of
eight rounds from `c = i`, computes the same function. -/
def Obligations.CrcStreamsAndTabulates : Prop :=
  (∀ a b : List Byte, crc32 (a ++ b) = crcUpdate (crcUpdate Config.crcInit a) b ^^^ Config.crcXorOut) ∧
  (∀ bytes : List Byte,
    crc32 bytes =
      bytes.foldl (fun (c : Word32) (b : Byte) => (c >>> 8) ^^^ crcRound^[8] ((c ^^^ b.setWidth 32) &&& 0xFF#32)) Config.crcInit
        ^^^ Config.crcXorOut)

/-- "CRC-32 detects all single-bit errors and all burst errors of length ≤ 32" (43_frame_encoder.md R203): two different byte strings of one
length whose bits, counted in the order they enter the register (20_memory.md R69), differ only inside 32 neighbouring places. -/
def Obligations.CrcDetectsShortBursts : Prop :=
  ∀ (a b : List Byte) (k : Nat), a.length = b.length → a ≠ b →
    (∀ j, (a.getD (j / 8) 0#8).getLsbD (j % 8) ≠ (b.getD (j / 8) 0#8).getLsbD (j % 8) → k ≤ j ∧ j < k + 32) →
    crc32 a ≠ crc32 b

/-- 43_frame_encoder.md R207 to R213: the four constructors, `BadOperand` without effect for a payload over 65535 bytes; else the Message of
R207, `seq_ctr` incremented modulo `2^32` only when `seq_sel = 1`, nothing else changed. -/
def Obligations.MsgNewCompletes : Prop :=
  ∀ (s : State) (sel : Bool) (seq : Word32) (payload : List Byte) (i : Instr) (k : Kind),
    ((i = .msgNewText sel seq payload ∧ k = .text) ∨ (i = .msgNewFile sel seq payload ∧ k = .file) ∨
      (i = .msgNewAck sel seq payload ∧ k = .ack) ∨ (i = .msgNewPing sel seq payload ∧ k = .ping)) →
    (payload.length > 65535 →
      exec i s = .next { s with rspOut := s.rspOut ++ [{ status := .badOperand, value := .none }] }) ∧
    (payload.length ≤ 65535 → ∃ h : Header,
      exec i s = .next { s with
        seqCtr := (if sel then s.seqCtr + 1#32 else s.seqCtr)
        rspOut := s.rspOut ++ [{ status := .ok, value := .message ⟨h, payload, crc32 (serHdrText s.params.textFormat h ++ payload)⟩ }] } ∧
      h.version = 1#8 ∧ h.kind = k ∧ h.sequenceNumber = (if sel then s.seqCtr else seq) ∧ h.timestamp = s.timeIn ∧
      h.payloadLength.toNat = payload.length)

/-! The frame encoder. -/

/-- FENC.SER, and FENC.WRAP and FENC.ENCODE of at most 1024 bytes of envelope payload, complete in every state and change nothing but
`rsp_out` (43_frame_encoder.md R215, R216, R218, R219). -/
def Obligations.FrameEncoderCompletes : Prop :=
  ∀ (s : State) (m : Message) (p : List Byte),
    exec (.fencSer m) s = .next { s with rspOut := s.rspOut ++ [{ status := .ok, value := .bytes (serText s.params.textFormat m) }] } ∧
    (p.length ≤ 1024 →
      exec (.fencWrap p) s = .next { s with rspOut := s.rspOut ++ [{ status := .ok, value := .bytes (wrapFrame p) }] }) ∧
    ((serText s.params.textFormat m).length ≤ 1024 →
      exec (.fencEncode m) s = .next { s with
        rspOut := s.rspOut ++ [{ status := .ok, value := .bytes (wrapFrame (serText s.params.textFormat m)) }] })

/-- `PayloadTooLarge` with the offending size and no other effect, of FENC.WRAP, FENC.ENCODE and TX.SEND (43_frame_encoder.md R216 to R218,
60_exceptions.md R304, R312): where they are turned away. -/
def Obligations.TooLargePayloadIsRefused : Prop :=
  ∀ (s : State) (m : Message) (p : List Byte),
    (1024 < p.length → exec (.fencWrap p) s = .next { s with
      rspOut := s.rspOut ++ [{ status := .payloadTooLarge (word32OfNat p.length), value := .none }] }) ∧
    (1024 < (serText s.params.textFormat m).length → exec (.fencEncode m) s = .next { s with
      rspOut := s.rspOut ++ [{ status := .payloadTooLarge (word32OfNat (serText s.params.textFormat m).length), value := .none }] }) ∧
    (1024 < (serText s.params.textFormat m).length → s.cfg.cfgValid = true → s.mod.active = false → exec (.txSend m) s = .next { s with
      rspOut := s.rspOut ++ [{ status := .payloadTooLarge (word32OfNat (serText s.params.textFormat m).length), value := .none }] })

/-- The frame of 30_encoding.md R90, field by field. -/
def Obligations.FrameLayout : Prop :=
  ∀ p : List Byte, p.length ≤ 1024 →
    (wrapFrame p).length = 14 + p.length ∧
    (∀ k, k < 8 → (wrapFrame p).getD k 0#8 = 0xAA#8) ∧
    (wrapFrame p).getD 8 0#8 = 0x7E#8 ∧ (wrapFrame p).getD 9 0#8 = 0x7E#8 ∧
    256 * ((wrapFrame p).getD 10 0#8).toNat + ((wrapFrame p).getD 11 0#8).toNat = p.length ∧
    (∀ k, k < p.length → (wrapFrame p).getD (12 + k) 0#8 = p.getD k 0#8) ∧
    (wrapFrame p).getD (12 + p.length) 0#8 = 0x7E#8 ∧ (wrapFrame p).getD (13 + p.length) 0#8 = 0x7E#8

/-- In the reference text format (log 10): the size of the text (30_encoding.md R109), and that a version 1 text is never shorter than
124 bytes. -/
def Obligations.MessageTextSize : Prop :=
  (∀ h : Header, (serHeader h).length =
    80 + (dec h.version.toNat).length + (kindTag h.kind).length + (dec h.sequenceNumber.toNat).length
      + (dec h.timestamp.toNat).length + (dec h.payloadLength.toNat).length) ∧
  (∀ m : Message, (serMessage m).length =
    36 + (serHeader m.header).length + (m.payload.map (fun b => (dec b.toNat).length)).sum + (m.payload.length - 1)
      + (dec m.checksum.toNat).length) ∧
  (∀ m : Message, m.header.version = 1#8 → 124 ≤ (serMessage m).length)

/-- `DESER(SER(m)) = m` for every Message, in the reference text format (30_encoding.md R112 (a), log 10). -/
def Obligations.DeserialiseInvertsSerialise : Prop :=
  ∀ m : Message, deserialise (serMessage m) = some m

/-- `SER` and `SER_HDR` of the reference text format are injective (30_encoding.md R112 (c), log 10). -/
def Obligations.SerialisersAreInjective : Prop :=
  (∀ m m' : Message, serMessage m = serMessage m' → m = m') ∧ (∀ h h' : Header, serHeader h = serHeader h' → h = h')

/-! The modulator. -/

/-- 41_modulator.md R157: MOD.ENCODE of a non-empty byte string, run to its end, puts exactly the samples of R151 on `pcm_out`, in order,
`8 * n * sps` of them, the last one marked `last` and no other; it answers `Ok` and leaves the modulator idle. -/
def Obligations.ModEncodeMatchesFormula : Prop :=
  ∀ (s : State) (bytes : List Byte), s.cfg.cfgValid = true → 1 ≤ s.cfg.sps → ModInv s.cfg s.mod → s.mod.active = false →
    s.sched = [] → bytes ≠ [] →
    (∃ m : ModRegs, exec (.modEncode bytes) s = .next { s with
        mod := m
        pcmOut := s.pcmOut ++ encodedItems s.params s.cfg bytes
        rspOut := s.rspOut ++ [{ status := .ok, value := .none }] } ∧
      m.active = false ∧ m.bitIdx = 0 ∧ m.sampIdx = 0 ∧ m.tx = [] ∧ m.late = []) ∧
    (encodedItems s.params s.cfg bytes).length = 8 * bytes.length * s.cfg.sps ∧
    (∀ (k : Nat) (x : PcmItem), (encodedItems s.params s.cfg bytes)[k]? = some x →
      (x.last = true ↔ k + 1 = 8 * bytes.length * s.cfg.sps)) ∧
    (∀ (j i : Nat), j < 8 * bytes.length → i < s.cfg.sps →
      (encodedItems s.params s.cfg bytes)[j * s.cfg.sps + i]? = some (encodedItem s.params s.cfg bytes j i))

/-- MOD.ENCODE of an empty byte string (41_modulator.md R160): nothing on `pcm_out`, not even a `last` marker, and `Ok`. -/
def Obligations.ModEncodeOfNothing : Prop :=
  ∀ s : State, s.cfg.cfgValid = true → s.mod.active = false →
    exec (.modEncode []) s = .next { s with rspOut := s.rspOut ++ [{ status := .ok, value := .none }] }

/-- MOD.ENCODE and TX.SEND before a configuration, or while the modulator is active (40_config.md R135, 60_exceptions.md R307, R309, R311):
where they are turned away. No register changes; the answer goes out at once, or, while a call is running, is kept to follow that
call's answer, as 20_memory.md R62 orders the answers of one unit (log 37). -/
def Obligations.TransmitRefusals : Prop :=
  ∀ (i : Instr) (s : State), ((∃ b, i = .modEncode b) ∨ (∃ m, i = .txSend m)) →
    (s.cfg.cfgValid = false → s.mod.active = false →
      exec i s = .next { s with rspOut := s.rspOut ++ [{ status := .notConfigured, value := .none }] }) ∧
    (s.cfg.cfgValid = false → s.mod.active = true →
      exec i s = .next { s with mod := { s.mod with late := s.mod.late ++ [{ status := .notConfigured, value := .none }] } }) ∧
    (s.cfg.cfgValid = true → s.mod.active = true →
      exec i s = .next { s with mod := { s.mod with late := s.mod.late ++ [{ status := .busy, value := .none }] } })

/-- One turn of MOD with a byte held (41_modulator.md R153, R156): one item on `pcm_out` and the counters moved as R156 says; the answer `Ok`
only with the last sample of the last byte, followed by the refusals that waited for it (log 37). -/
def Obligations.ModTurnEmitsOneSample : Prop :=
  ∀ (s : State) (ts : List Turn), s.sched = .mod :: ts → s.mod.active = true → s.mod.held = true → s.mod.bitIdx < 8 →
    s.mod.sampIdx < s.cfg.sps →
    ∃ t : State, step s = .next t ∧
      t = { s with sched := ts, mod := t.mod, pcmOut := t.pcmOut, rspOut := t.rspOut } ∧
      t.pcmOut = s.pcmOut ++ [{
        sample := sampleOut s.params s.cfg (s.mod.byte.getLsbD (7 - s.mod.bitIdx)) s.mod.sampIdx s.mod.firstSym
          (s.mod.isLast && decide (s.mod.bitIdx = 7))
        last := s.mod.isLast && decide (s.mod.bitIdx = 7) && decide (s.mod.sampIdx + 1 = s.cfg.sps) }] ∧
      (s.mod.sampIdx + 1 < s.cfg.sps → t.mod = { s.mod with sampIdx := s.mod.sampIdx + 1 } ∧ t.rspOut = s.rspOut) ∧
      (s.mod.sampIdx + 1 = s.cfg.sps → s.mod.bitIdx < 7 →
        t.mod = { s.mod with sampIdx := 0, firstSym := false, bitIdx := s.mod.bitIdx + 1 } ∧ t.rspOut = s.rspOut) ∧
      (s.mod.sampIdx + 1 = s.cfg.sps → s.mod.bitIdx = 7 → s.mod.isLast = false →
        t.mod = { s.mod with sampIdx := 0, firstSym := false, bitIdx := 0, held := false } ∧ t.rspOut = s.rspOut) ∧
      (s.mod.sampIdx + 1 = s.cfg.sps → s.mod.bitIdx = 7 → s.mod.isLast = true →
        t.mod.active = false ∧ t.mod.bitIdx = 0 ∧ t.mod.sampIdx = 0 ∧ t.mod.late = [] ∧
        t.rspOut = s.rspOut ++ { status := .ok, value := .none } :: s.mod.late)

/-- 41_modulator.md R159: no sample is a NaN, an infinity or larger than the amplitude, whatever the free value is. -/
def Obligations.SamplesStayWithinAmplitude : Prop :=
  ∀ (p : Params) (c : CfgRegs) (bit : Bool) (i : Nat) (first last : Bool), 0 < c.conf.amplitude →
    f32Finite (sampleOut p c bit i first last) = true ∧ |f32Value (sampleOut p c bit i first last)| ≤ c.conf.amplitude

/-- The exact zeros of 41_modulator.md R158: sample 0 of every symbol and, with a ramp, the final sample of the call. -/
def Obligations.RampEndsAreExactZeros : Prop :=
  ∀ (p : Params) (c : CfgRegs) (bit : Bool) (i : Nat) (first last : Bool),
    (i = 0 ∨ (last = true ∧ 0 < c.rampN ∧ i + 1 = c.sps)) →
    sampleOut p c bit i first last = 0#32 ∨ sampleOut p c bit i first last = 0x80000000#32

/-- The enclosure of the sine that every sample question is decided with (log 12) holds the real sine, and `k` halvings make it
narrower than `4 / 2^k`. -/
def Obligations.SineEnclosureIsSound : Prop :=
  ∀ (k : Nat) (r : Rat), ((sinEnclosure k r).1 : ℝ) ≤ Real.sin (2 * Real.pi * (r : ℝ)) ∧
    Real.sin (2 * Real.pi * (r : ℝ)) ≤ ((sinEnclosure k r).2 : ℝ) ∧ (sinEnclosure k r).2 - (sinEnclosure k r).1 ≤ 4 / 2 ^ k

/-- 41_modulator.md R158: every sample is within the tolerance `EPS_TX` of the real value of R151, or within `2^-24`, one unit in the
last place of binary32 below 1, where the tolerance is smaller than that; the reference samples are within `2^-24` of it. For a
tolerance below `2^-24` see log 11. -/
def Obligations.SamplesFollowTheFormula : Prop :=
  ∀ (p : Params) (c : CfgRegs) (bit : Bool) (i : Nat) (first last : Bool) (eps : Rat),
    (p.sampling = .within eps ∨ (p.sampling = .reference ∧ eps = 0)) →
    0 < c.conf.amplitude → c.conf.amplitude ≤ 1 → 0 < c.conf.sampleRate → i < c.sps →
    |(f32Value (sampleOut p c bit i first last) : ℝ) - realOutput c bit i first last| ≤ ((max eps (1 / 16777216) : Rat) : ℝ)

/-- TX.SEND of a Message whose text fits (45_composition.md R280, R281): the samples of its frame on `pcm_out`, then `Ok`. -/
def Obligations.TxSendCompletes : Prop :=
  ∀ (s : State) (m : Message), s.cfg.cfgValid = true → 1 ≤ s.cfg.sps → ModInv s.cfg s.mod → s.mod.active = false →
    s.sched = [] → (serText s.params.textFormat m).length ≤ 1024 →
    (∃ r : ModRegs, exec (.txSend m) s = .next { s with
        mod := r
        pcmOut := s.pcmOut ++ encodedItems s.params s.cfg (wrapFrame (serText s.params.textFormat m))
        rspOut := s.rspOut ++ [{ status := .ok, value := .none }] } ∧
      r.active = false ∧ r.late = []) ∧
    (encodedItems s.params s.cfg (wrapFrame (serText s.params.textFormat m))).length =
      8 * (14 + (serText s.params.textFormat m).length) * s.cfg.sps

/-! The detector and the demodulator. -/

/-- DET.CLASSIFY of a window of `sps` samples with `dem_valid = 1` (42_demodulator.md R172): one bit, only `fft_buf` (and the model's draw
counter, logs 6, 14) written; with turns scheduled (log 1) the operation is in progress (40_config.md R134) until a turn of DEM. -/
def Obligations.DetClassifyCompletes : Prop :=
  ∀ (s : State) (w : List Sample), s.cfg.demValid = true → w.length = s.cfg.sps →
    let bit := windowBit s.params s.cfg (Config.detectorBit s.dem.draws) w
    (s.dem.op = none → s.sched = [] →
      exec (.detClassify w) s = .next { s with
        dem := { s.dem with fftBuf := { draw := s.dem.draws }, draws := s.dem.draws + 1 }
        rspOut := s.rspOut ++ [{ status := .ok, value := .bit bit }] }) ∧
    (s.dem.op = none → s.sched ≠ [] → exec (.detClassify w) s = .next { s with dem := { s.dem with op := some (.classify w) } }) ∧
    (∀ ts, s.dem.op = some (.classify w) → s.sched = .dem :: ts →
      step s = .next { s with
        sched := ts
        dem := { s.dem with fftBuf := { draw := s.dem.draws }, draws := s.dem.draws + 1, op := none }
        rspOut := s.rspOut ++ [{ status := .ok, value := .bit bit }] })

/-- 42_demodulator.md R173 to R178 with `EPS_RX = 0`: on a window of finite samples no longer than the transform, the machine's exact
arithmetic gives bit 1 if and only if the real peak near the mark is strictly above the real peak near the space, whatever the
draw. -/
def Obligations.DetectorComparesRealPeaks : Prop :=
  ∀ (p : Params) (c : CfgRegs) (draw : Bool) (w : List Sample) (m : Nat),
    p.epsRx = 0 → c.fftN = 2 ^ (m + 2) → 2 * c.bin0 ≤ c.fftN → 2 * c.bin1 ≤ c.fftN → w.length ≤ c.fftN →
    (∀ x ∈ w, f32Finite x = true) →
    (windowBit p c draw w = true ↔ MarkIsStronger c.fftN c.bin0 c.bin1 w)

/-- Silence is a tie, and ties resolve to 0 (42_demodulator.md R177), whatever the draw. -/
def Obligations.SilenceIsZero : Prop :=
  ∀ (p : Params) (c : CfgRegs) (draw : Bool) (n : Nat), p.epsRx = 0 →
    windowBit p c draw (List.replicate n 0#32) = false

/-- A window with a NaN or an infinity has the bit of the draw (42_demodulator.md R179), whatever the draw. -/
def Obligations.NonNumbersGiveADraw : Prop :=
  ∀ (p : Params) (c : CfgRegs) (draw : Bool) (w : List Sample), (∃ x ∈ w, (x.extractLsb' 23 8) = 0xFF#8) →
    windowBit p c draw w = draw

/-- The per-sample step of 42_demodulator.md R183 to R186, in a demodulator whose window has its `sps` elements (20_memory.md R61); and a
turn of DEM (log 1) with a DEM.PUSH or DEM.DECODE in progress does this step with the next sample, answering with the last one. -/
def Obligations.PerSampleStep : Prop :=
  (∀ (p : Params) (c : CfgRegs) (d : DemRegs) (x : Sample), d.rxWin.length = c.sps →
    (d.pushSample p c x).2.rxWin.length = c.sps ∧
    (d.rxFill + 1 < c.sps →
      (d.pushSample p c x).1 = [] ∧ (d.pushSample p c x).2.rxFill = d.rxFill + 1 ∧
      (d.pushSample p c x).2.rxWin.take (d.rxFill + 1) = d.rxWin.take d.rxFill ++ [x] ∧
      (d.pushSample p c x).2.rxShift = d.rxShift ∧ (d.pushSample p c x).2.rxBitcnt = d.rxBitcnt) ∧
    (d.rxFill + 1 = c.sps → ∃ bit : Bool,
      bit = windowBit p c (Config.detectorBit d.draws) (d.rxWin.take d.rxFill ++ [x]) ∧
      (d.pushSample p c x).2.rxFill = 0 ∧
      (d.rxBitcnt + 1 ≠ 8 → (d.pushSample p c x).1 = [] ∧ (d.pushSample p c x).2.rxBitcnt = d.rxBitcnt + 1 ∧
        (d.pushSample p c x).2.rxShift = BitVec.ofNat 8 (2 * d.rxShift.toNat + bit.toNat)) ∧
      (d.rxBitcnt + 1 = 8 → (d.pushSample p c x).1 = [BitVec.ofNat 8 (2 * d.rxShift.toNat + bit.toNat)] ∧
        (d.pushSample p c x).2.rxBitcnt = 0 ∧ (d.pushSample p c x).2.rxShift = 0#8))) ∧
  (∀ (s : State) (ts : List Turn) (x : Sample) (rest : List Sample) (out : List Byte), s.sched = .dem :: ts →
    let r := s.dem.pushSample s.params s.cfg x
    (s.dem.op = some (.push (x :: rest) out) → rest ≠ [] →
      step s = .next { s with sched := ts, dem := { r.2 with op := some (.push rest (out ++ r.1)) } }) ∧
    (s.dem.op = some (.push [x] out) →
      step s = .next { s with
        sched := ts, dem := { r.2 with op := none }, rspOut := s.rspOut ++ [{ status := .ok, value := .bytes (out ++ r.1) }] }) ∧
    (s.dem.op = some (.decode (x :: rest) out) → rest ≠ [] →
      step s = .next { s with sched := ts, dem := { r.2 with op := some (.decode rest (out ++ r.1)) } }) ∧
    (s.dem.op = some (.decode [x] out) →
      step s = .next { s with
        sched := ts, dem := { r.2.init s.cfg.sps with op := none }
        rspOut := s.rspOut ++ [{ status := .ok, value := .bytes (out ++ r.1) }] }))

/-- DEM.INIT, DEM.PUSH and DEM.DECODE complete with `dem_valid = 1` and DEM free (40_config.md R137, 42_demodulator.md R182, R188): the
per-sample step over the samples, kept by DEM.PUSH and framed by two DEM.INITs in DEM.DECODE, whose unspecified elements of
`rx_win` are free values of the next draw (log 5). With turns scheduled (log 1) the operation is in progress; with no turn left and
no request to serve, one that is in progress runs to its end. -/
def Obligations.DemodulatorCompletes : Prop :=
  ∀ (s : State) (w : List Sample), s.cfg.demValid = true →
    let fresh : DemRegs := { s.dem with
      rxWin := unspecifiedWindow s.dem.draws s.cfg.sps, rxFill := 0, rxShift := 0#8, rxBitcnt := 0, draws := s.dem.draws + 1 }
    (s.dem.op = none →
      exec .demInit s = .next { s with dem := fresh, rspOut := s.rspOut ++ [{ status := .ok, value := .none }] }) ∧
    (s.dem.op = none → s.sched = [] →
      exec (.demPush w) s = .next { s with
        dem := (s.dem.pushSamples s.params s.cfg w).2
        rspOut := s.rspOut ++ [{ status := .ok, value := .bytes (s.dem.pushSamples s.params s.cfg w).1 }] } ∧
      exec (.demDecode w) s = .next { s with
        dem := (fresh.pushSamples s.params s.cfg w).2.init s.cfg.sps
        rspOut := s.rspOut ++ [{ status := .ok, value := .bytes (fresh.pushSamples s.params s.cfg w).1 }] }) ∧
    (s.dem.op = none → s.sched ≠ [] → w ≠ [] →
      exec (.demPush w) s = .next { s with dem := { s.dem with op := some (.push w []) } } ∧
      exec (.demDecode w) s = .next { s with dem := { fresh with op := some (.decode w []) } }) ∧
    (∀ out, s.sched = [] → s.cmdIn = [] → s.mod.active = false → s.fdec.op = none → w ≠ [] →
      let r := s.dem.pushSamples s.params s.cfg w
      (s.dem.op = some (.push w out) →
        step s = .next { s with
          dem := { r.2 with op := none }, rspOut := s.rspOut ++ [{ status := .ok, value := .bytes (out ++ r.1) }] }) ∧
      (s.dem.op = some (.decode w out) →
        step s = .next { s with
          dem := { r.2.init s.cfg.sps with op := none }
          rspOut := s.rspOut ++ [{ status := .ok, value := .bytes (out ++ r.1) }] }))

/-- The receive operations before a configuration, and a window of the wrong length (40_config.md R135, 60_exceptions.md R306, R307, R311):
where they are turned away, without effect. For DET.CLASSIFY while `cfg_valid = 0` see log 17. -/
def Obligations.ReceiveRefusals : Prop :=
  ∀ (i : Instr) (s : State), s.dem.op = none → s.fdec.op = none →
    (s.cfg.demValid = false → (i = .demInit ∨ (∃ w, i = .demDecode w) ∨ (∃ w, i = .demPush w) ∨ (∃ n, i = .rxRecv n)) →
      exec i s = .next { s with rspOut := s.rspOut ++ [{ status := .notConfigured, value := .none }] }) ∧
    (∀ w, i = .detClassify w →
      (s.cfg.cfgValid = true → w.length ≠ s.cfg.sps →
        exec i s = .next { s with rspOut := s.rspOut ++ [{ status := .badOperand, value := .none }] }) ∧
      (s.cfg.demValid = false → s.cfg.cfgValid = false ∨ w.length = s.cfg.sps →
        exec i s = .next { s with rspOut := s.rspOut ++ [{ status := .notConfigured, value := .none }] }))

/-- Splitting a chunk in two at any point gives the same bytes and the same final state (42_demodulator.md R182). -/
def Obligations.PushSplitsAnywhere : Prop :=
  ∀ (p : Params) (c : CfgRegs) (d : DemRegs) (a b : List Sample),
    (d.pushSamples p c (a ++ b)).1 = (d.pushSamples p c a).1 ++ ((d.pushSamples p c a).2.pushSamples p c b).1 ∧
    (d.pushSamples p c (a ++ b)).2 = ((d.pushSamples p c a).2.pushSamples p c b).2

/-- 42_demodulator.md R190, with `EPS_RX = 0` and finite samples: the bytes DEM.DECODE answers (DemodulatorCompletes), written window by
window. -/
def Obligations.DecodeClosedForm : Prop :=
  ∀ (p : Params) (c : CfgRegs) (d : DemRegs) (buf : List Sample),
    p.epsRx = 0 → 1 ≤ c.sps → (∀ x ∈ buf, f32Finite x = true) →
    (((d.init c.sps).pushSamples p c buf).1).length = buf.length / c.sps / 8 ∧
    ∀ q, q < buf.length / c.sps / 8 →
      ((((d.init c.sps).pushSamples p c buf).1).getD q 0#8).toNat =
        ((List.range 8).map (fun t =>
          (windowBit p c false ((buf.drop ((8 * q + t) * c.sps)).take c.sps)).toNat * 2 ^ (7 - t))).sum

/-! The frame decoder. -/

/-- `feed_byte` in a sound decoder, state by state (44_frame_decoder.md R242 to R252). -/
def Obligations.FeedByteTransitions : Prop :=
  ∀ (p : Params) (r : FdecRegs) (b : Byte), 16 ≤ p.cap → FdecInv p r →
    (r.tag = .wp → ∃ (kept : List Byte) (overflow : List Event),
      kept = (if p.cap < r.buf.length + 1 then (r.buf ++ [b]).drop (r.buf.length + 1 - p.cap / 2) else r.buf ++ [b]) ∧
      overflow = (if p.cap < r.buf.length + 1 then [.bufferOverflow] else []) ∧
      ((kept.reverse.take 8 = List.replicate 8 0xAA#8) →
        feedByte p r b = ({ r with tag := .ws, buf := [] }, [], overflow ++ [.preambleFound])) ∧
      ((kept.reverse.take 8 ≠ List.replicate 8 0xAA#8) →
        feedByte p r b = ({ r with buf := kept }, [], overflow))) ∧
    (r.tag = .ws → r.buf = [] → feedByte p r b = ({ r with buf := [b] }, [], [])) ∧
    (∀ a, r.tag = .ws → r.buf = [a] →
      (a = 0x7E#8 ∧ b = 0x7E#8 → feedByte p r b = ({ r with tag := .rl, buf := [] }, [], [])) ∧
      (¬ (a = 0x7E#8 ∧ b = 0x7E#8) →
        feedByte p r b = ({ r with tag := .wp, buf := [a, b] }, [], [.frameCorrupt .start]))) ∧
    (r.tag = .rl → r.buf = [] → feedByte p r b = ({ r with buf := [b] }, [], [])) ∧
    (∀ a, r.tag = .rl → r.buf = [a] →
      (1 ≤ 256 * a.toNat + b.toNat ∧ 256 * a.toNat + b.toNat ≤ 1024 →
        feedByte p r b = ({ r with tag := .rm, buf := [], len := 256 * a.toNat + b.toNat, pay := [] }, [], [])) ∧
      (256 * a.toNat + b.toNat = 0 ∨ 1024 < 256 * a.toNat + b.toNat →
        feedByte p r b = ({ r with tag := .wp, buf := [a, b] }, [], [.frameCorrupt .length]))) ∧
    (r.tag = .rm → feedByte p r b =
      ({ r with tag := if r.pay.length + 1 = r.len then .we else .rm, pay := r.pay ++ [b] }, [], [])) ∧
    (r.tag = .we → r.buf = [] → feedByte p r b = ({ r with buf := [b] }, [], [])) ∧
    (∀ a, r.tag = .we → r.buf = [a] →
      (¬ (a = 0x7E#8 ∧ b = 0x7E#8) →
        feedByte p r b = ({ r with tag := .wp, buf := [a, b], len := 0, pay := [] }, [], [.frameCorrupt .endDelim])) ∧
      (a = 0x7E#8 ∧ b = 0x7E#8 →
        (feedByte p r b).1 = { r with tag := .wp, buf := [], len := 0, pay := [] } ∧
        (∀ m, deserText p.textFormat r.pay = some m → m.checksum = crc32 (serHdrText p.textFormat m.header ++ m.payload) →
          (feedByte p r b).2 = ([m], [.frameOk])) ∧
        (∀ m, deserText p.textFormat r.pay = some m → m.checksum ≠ crc32 (serHdrText p.textFormat m.header ++ m.payload) →
          (feedByte p r b).2 = ([], [.frameCorrupt .crc])) ∧
        (deserText p.textFormat r.pay = none → (feedByte p r b).2 = ([], [.frameCorrupt .deser]))))

/-- The invariants (a) to (f) of 44_frame_decoder.md R260 hold between any two `feed_byte` steps. -/
def Obligations.FeedByteKeepsDecoderInvariant : Prop :=
  ∀ (p : Params) (r : FdecRegs) (b : Byte), 16 ≤ p.cap → FdecInv p r → FdecInv p (feedByte p r b).1

/-- The bound on the number of rules in one `feed_byte` is never met: with more rules allowed the result is the same
(44_frame_decoder.md R255). -/
def Obligations.FeedByteTerminates : Prop :=
  ∀ (p : Params) (r : FdecRegs) (b : Byte) (n : Nat), 16 ≤ p.cap → FdecInv p r →
    let a := r.append p b
    a.1.rulesEnough ≤ n → fdecRules p.textFormat n a.1 = fdecRules p.textFormat a.1.rulesEnough a.1

/-- Whatever bytes arrive in whatever decoder state, every Message emitted has a checksum that verifies
(44_frame_decoder.md R250, R251, 43_frame_encoder.md R206). -/
def Obligations.EmittedMessagesVerify : Prop :=
  ∀ (p : Params) (r : FdecRegs) (bytes : List Byte) (m : Message), m ∈ (feedBytes p r bytes).2.1 →
    m.checksum = crc32 (serHdrText p.textFormat m.header ++ m.payload)

/-- FDEC.INIT, FDEC.FEED and FDEC.DESER complete when FDEC is free, in every configuration (40_config.md R138, 44_frame_decoder.md R240, R254).
DESER's failures are statuses, where it is turned away with no other effect. With turns scheduled (log 1) an FDEC.FEED is in
progress and a turn of FDEC is one `feed_byte`, the last one answering; with no turn left and no request to serve, one that is in
progress runs to its end. -/
def Obligations.FrameDecoderCompletes : Prop :=
  ∀ (s : State) (chunk text : List Byte),
    let debug (es : List Event) : List Event := if s.params.debugEvents then s.dbgOut ++ es else s.dbgOut
    (s.fdec.op = none → s.dem.op = none →
      exec .fdecInit s = .next { s with
        fdec := { tag := .wp, buf := [], len := 0, pay := [], op := none }
        rspOut := s.rspOut ++ [{ status := .ok, value := .none }] } ∧
      (s.sched = [] → exec (.fdecFeed chunk) s = .next { s with
        fdec := (feedBytes s.params s.fdec chunk).1
        dbgOut := debug (feedBytes s.params s.fdec chunk).2.2
        rspOut := s.rspOut ++ [{ status := .ok, value := .messages (feedBytes s.params s.fdec chunk).2.1 }] }) ∧
      (s.sched ≠ [] → chunk ≠ [] → exec (.fdecFeed chunk) s = .next { s with
        fdec := { s.fdec with op := some { rest := chunk, out := [] } } }) ∧
      (∀ m, deserText s.params.textFormat text = some m →
        m.checksum = crc32 (serHdrText s.params.textFormat m.header ++ m.payload) →
        exec (.fdecDeser text) s = .next { s with rspOut := s.rspOut ++ [{ status := .ok, value := .message m }] }) ∧
      (∀ m, deserText s.params.textFormat text = some m →
        m.checksum ≠ crc32 (serHdrText s.params.textFormat m.header ++ m.payload) →
        exec (.fdecDeser text) s = .next { s with
          rspOut := s.rspOut ++ [{ status := .frameCorrupt .crc, value := .none }] }) ∧
      (deserText s.params.textFormat text = none → exec (.fdecDeser text) s = .next { s with
          rspOut := s.rspOut ++ [{ status := .frameCorrupt .deser, value := .none }] })) ∧
    (∀ (b : Byte) (rest : List Byte) (out : List Message) (ts : List Turn),
      s.fdec.op = some { rest := b :: rest, out := out } → s.sched = .fdec :: ts →
      let x := feedByte s.params s.fdec b
      (rest ≠ [] → step s = .next { s with
        sched := ts, fdec := { x.1 with op := some { rest := rest, out := out ++ x.2.1 } }, dbgOut := debug x.2.2 }) ∧
      (rest = [] → step s = .next { s with
        sched := ts, fdec := { x.1 with op := none }, dbgOut := debug x.2.2
        rspOut := s.rspOut ++ [{ status := .ok, value := .messages (out ++ x.2.1) }] })) ∧
    (∀ out, s.fdec.op = some { rest := chunk, out := out } → chunk ≠ [] → s.sched = [] → s.cmdIn = [] → s.mod.active = false →
      s.dem.op = none →
      let x := feedBytes s.params s.fdec chunk
      step s = .next { s with
        fdec := { x.1 with op := none }, dbgOut := debug x.2.2
        rspOut := s.rspOut ++ [{ status := .ok, value := .messages (out ++ x.2.1) }] })

/-- 44_frame_decoder.md R257: `FDEC.FEED (a ++ b)` leaves the same state and returns the same Messages as `FDEC.FEED a` followed by
`FDEC.FEED b`, results concatenated; of the output ports only the number of answers differs. -/
def Obligations.ChunkingDoesNotMatter : Prop :=
  ∀ (s : State) (a b : List Byte), s.fdec.op = none → s.dem.op = none → s.sched = [] →
    ∃ (t t1 t2 : State) (ma mb : List Message),
      exec (.fdecFeed (a ++ b)) s = .next t ∧ exec (.fdecFeed a) s = .next t1 ∧ exec (.fdecFeed b) t1 = .next t2 ∧
      t.rspOut = s.rspOut ++ [{ status := .ok, value := .messages (ma ++ mb) }] ∧
      t2.rspOut = s.rspOut ++ [{ status := .ok, value := .messages ma }, { status := .ok, value := .messages mb }] ∧
      t = { t2 with rspOut := t.rspOut }

/-- The Messages emitted, and every decoder register but `fdec_buf` in state `WP`, do not depend on `CAP` as long as `CAP ≥ 16`
(44_frame_decoder.md R260 (g)). -/
def Obligations.CapDoesNotMatter : Prop :=
  ∀ (p p' : Params) (bytes : List Byte), 16 ≤ p.cap → 16 ≤ p'.cap → p.textFormat = p'.textFormat →
    (feedBytes p FdecRegs.reset bytes).2.1 = (feedBytes p' FdecRegs.reset bytes).2.1 ∧
    (feedBytes p FdecRegs.reset bytes).1.tag = (feedBytes p' FdecRegs.reset bytes).1.tag ∧
    (feedBytes p FdecRegs.reset bytes).1.len = (feedBytes p' FdecRegs.reset bytes).1.len ∧
    (feedBytes p FdecRegs.reset bytes).1.pay = (feedBytes p' FdecRegs.reset bytes).1.pay ∧
    ((feedBytes p FdecRegs.reset bytes).1.tag ≠ .wp →
      (feedBytes p FdecRegs.reset bytes).1.buf = (feedBytes p' FdecRegs.reset bytes).1.buf)

/-- A run of `n` bytes `0xAA` followed by the rest of the frame of a Message that verifies is decoded if and only if `n` is a positive
multiple of 8 (44_frame_decoder.md R259). "If" in every text format that reads the Message back (30_encoding.md R112 (a)), "only if" in the
reference format, whose texts have no frame inside them (log 10). -/
def Obligations.PreambleRunDecodes : Prop :=
  ∀ (p : Params) (m : Message) (n : Nat), 16 ≤ p.cap →
    deserText p.textFormat (serText p.textFormat m) = some m → verifyMessage p.textFormat m = true →
    1 ≤ (serText p.textFormat m).length → (serText p.textFormat m).length ≤ 1024 →
    let emitted := (feedBytes p FdecRegs.reset (List.replicate n 0xAA#8 ++ (wrapFrame (serText p.textFormat m)).drop 8)).2.1
    (0 < n → n % 8 = 0 → emitted = [m]) ∧ (¬ (0 < n ∧ n % 8 = 0) → p.textFormat = .compactJson → emitted = [])

/-- The frame-layer half of the round-trip law (45_composition.md R286): the frame FENC.ENCODE makes of a Message that verifies, fed to a
fresh decoder, emits exactly that Message and leaves the decoder as it was; in every text format that reads the
Message back (30_encoding.md R112 (a), log 10). -/
def Obligations.EncodedFrameIsDecoded : Prop :=
  ∀ (s : State) (m : Message), 16 ≤ s.params.cap → s.fdec = FdecRegs.reset → s.dem.op = none → s.sched = [] →
    deserText s.params.textFormat (serText s.params.textFormat m) = some m → verifyMessage s.params.textFormat m = true →
    1 ≤ (serText s.params.textFormat m).length → (serText s.params.textFormat m).length ≤ 1024 →
    exec (.fencEncode m) s = .next { s with
      rspOut := s.rspOut ++ [{ status := .ok, value := .bytes (wrapFrame (serText s.params.textFormat m)) }] } ∧
    ∃ t : State, exec (.fdecFeed (wrapFrame (serText s.params.textFormat m))) s = .next t ∧ t.fdec = FdecRegs.reset ∧
      t.rspOut = s.rspOut ++ [{ status := .ok, value := .messages [m] }]

/-! The receive pipeline. -/

/-- 45_composition.md R284: with the samples there, RX.RECV is DEM.PUSH composed with FDEC.FEED: the Messages it sends are
`FDEC.FEED(DEM.PUSH(x))` and the final state is the same. -/
def Obligations.RxRecvIsPushThenFeed : Prop :=
  ∀ (s : State) (count : Nat), s.dem.op = none → s.fdec.op = none → s.cfg.demValid = true → s.sched = [] →
    s.rxBytes = [] → count ≤ s.pcmIn.length →
    let pushed := s.dem.pushSamples s.params s.cfg (s.pcmIn.take count)
    let fed := feedBytes s.params s.fdec pushed.1
    exec (.rxRecv count) s = .next { s with
      pcmIn := s.pcmIn.drop count
      dem := pushed.2
      fdec := fed.1
      msgOut := s.msgOut ++ fed.2.1
      dbgOut := if s.params.debugEvents then s.dbgOut ++ fed.2.2 else s.dbgOut
      rspOut := s.rspOut ++ [{ status := .ok, value := .count fed.2.1.length }] }

/-- RX.RECV with fewer samples there than it asks for takes those, DEM and FDEC working on them as in RxRecvIsPushThenFeed, and waits for
the others without an answer (45_composition.md R283, 20_memory.md R63; log 36): where it waits. A later step goes on with the samples
that have come, and answers when they are enough; with none come it changes nothing. A turn of DEM (log 1) takes one sample. -/
def Obligations.RxRecvWaitsForSamples : Prop :=
  ∀ s : State, s.rxBytes = [] → s.fdec.op = none →
    let after (taken : List Sample) (op : Nat → Option DemOp) : State :=
      let pushed := s.dem.pushSamples s.params s.cfg taken
      let fed := feedBytes s.params s.fdec pushed.1
      { s with
        pcmIn := s.pcmIn.drop taken.length
        dem := { pushed.2 with op := op fed.2.1.length }
        fdec := fed.1
        msgOut := s.msgOut ++ fed.2.1
        dbgOut := if s.params.debugEvents then s.dbgOut ++ fed.2.2 else s.dbgOut }
    let sentBy (taken : List Sample) : Nat :=
      (feedBytes s.params s.fdec (s.dem.pushSamples s.params s.cfg taken).1).2.1.length
    (∀ count, s.dem.op = none → s.cfg.demValid = true → s.sched = [] → s.pcmIn.length < count →
      exec (.rxRecv count) s = .next (after s.pcmIn (fun n => some (.recv (count - s.pcmIn.length) n)))) ∧
    (∀ left sent, s.dem.op = some (.recv left sent) → 0 < left → s.sched = [] → s.cmdIn = [] → s.mod.active = false →
      (s.pcmIn.length < left → step s = .next (after s.pcmIn (fun n => some (.recv (left - s.pcmIn.length) (sent + n))))) ∧
      (left ≤ s.pcmIn.length → step s = .next { after (s.pcmIn.take left) (fun _ => none) with
        rspOut := s.rspOut ++ [{ status := .ok, value := .count (sent + sentBy (s.pcmIn.take left)) }] })) ∧
    (∀ left sent ts, s.dem.op = some (.recv (left + 1) sent) → s.sched = .dem :: ts →
      (s.pcmIn = [] → step s = .next { s with sched := ts }) ∧
      (∀ x xs, s.pcmIn = x :: xs → 0 < left →
        step s = .next { after [x] (fun n => some (.recv left (sent + n))) with sched := ts }) ∧
      (∀ x xs, s.pcmIn = x :: xs → left = 0 →
        step s = .next { after [x] (fun _ => none) with
          sched := ts, rspOut := s.rspOut ++ [{ status := .ok, value := .count (sent + sentBy [x]) }] }))
end

