-- ==== Sys2Proof/Laws/State.lean ====
section
/-!
SUPPORT. One lemma per field for each named update of the state, true by computation, so that no proof unfolds a record update.
-/
namespace Sys2Proof.Machine

/-! Answering. -/

/-- Ending with `Ok` is answering with `Ok`. -/
@[simp] theorem State.ok_eq_respond (s : State) (v : Value) : s.ok v = s.respond .ok v := rfl

/-- Refusing is answering with the status and no value. -/
@[simp] theorem State.refuse_eq_respond (s : State) (st : Status) : s.refuse st = s.respond st .none := rfl

@[simp] theorem State.respond_params (s : State) (st : Status) (v : Value) : (s.respond st v).params = s.params := rfl

@[simp] theorem State.respond_cfg (s : State) (st : Status) (v : Value) : (s.respond st v).cfg = s.cfg := rfl

@[simp] theorem State.respond_mod (s : State) (st : Status) (v : Value) : (s.respond st v).mod = s.mod := rfl

@[simp] theorem State.respond_dem (s : State) (st : Status) (v : Value) : (s.respond st v).dem = s.dem := rfl

@[simp] theorem State.respond_seqCtr (s : State) (st : Status) (v : Value) : (s.respond st v).seqCtr = s.seqCtr := rfl

@[simp] theorem State.respond_fdec (s : State) (st : Status) (v : Value) : (s.respond st v).fdec = s.fdec := rfl

@[simp] theorem State.respond_cmdIn (s : State) (st : Status) (v : Value) : (s.respond st v).cmdIn = s.cmdIn := rfl

@[simp] theorem State.respond_rspOut (s : State) (st : Status) (v : Value) :
    (s.respond st v).rspOut = s.rspOut ++ [{ status := st, value := v }] := rfl

@[simp] theorem State.respond_pcmOut (s : State) (st : Status) (v : Value) : (s.respond st v).pcmOut = s.pcmOut := rfl

@[simp] theorem State.respond_pcmIn (s : State) (st : Status) (v : Value) : (s.respond st v).pcmIn = s.pcmIn := rfl

@[simp] theorem State.respond_timeIn (s : State) (st : Status) (v : Value) : (s.respond st v).timeIn = s.timeIn := rfl

@[simp] theorem State.respond_msgOut (s : State) (st : Status) (v : Value) : (s.respond st v).msgOut = s.msgOut := rfl

@[simp] theorem State.respond_dbgOut (s : State) (st : Status) (v : Value) : (s.respond st v).dbgOut = s.dbgOut := rfl

@[simp] theorem State.respond_rxBytes (s : State) (st : Status) (v : Value) : (s.respond st v).rxBytes = s.rxBytes := rfl

@[simp] theorem State.respond_draws (s : State) (st : Status) (v : Value) : (s.respond st v).draws = s.draws := rfl

@[simp] theorem State.respond_sched (s : State) (st : Status) (v : Value) : (s.respond st v).sched = s.sched := rfl

/-! Events. -/

@[simp] theorem State.postEvents_params (s : State) (es : List Event) : (s.postEvents es).params = s.params := by
  unfold State.postEvents; split <;> rfl

@[simp] theorem State.postEvents_cfg (s : State) (es : List Event) : (s.postEvents es).cfg = s.cfg := by
  unfold State.postEvents; split <;> rfl

@[simp] theorem State.postEvents_mod (s : State) (es : List Event) : (s.postEvents es).mod = s.mod := by
  unfold State.postEvents; split <;> rfl

@[simp] theorem State.postEvents_dem (s : State) (es : List Event) : (s.postEvents es).dem = s.dem := by
  unfold State.postEvents; split <;> rfl

@[simp] theorem State.postEvents_seqCtr (s : State) (es : List Event) : (s.postEvents es).seqCtr = s.seqCtr := by
  unfold State.postEvents; split <;> rfl

@[simp] theorem State.postEvents_fdec (s : State) (es : List Event) : (s.postEvents es).fdec = s.fdec := by
  unfold State.postEvents; split <;> rfl

@[simp] theorem State.postEvents_cmdIn (s : State) (es : List Event) : (s.postEvents es).cmdIn = s.cmdIn := by
  unfold State.postEvents; split <;> rfl

@[simp] theorem State.postEvents_rspOut (s : State) (es : List Event) : (s.postEvents es).rspOut = s.rspOut := by
  unfold State.postEvents; split <;> rfl

@[simp] theorem State.postEvents_pcmOut (s : State) (es : List Event) : (s.postEvents es).pcmOut = s.pcmOut := by
  unfold State.postEvents; split <;> rfl

@[simp] theorem State.postEvents_pcmIn (s : State) (es : List Event) : (s.postEvents es).pcmIn = s.pcmIn := by
  unfold State.postEvents; split <;> rfl

@[simp] theorem State.postEvents_timeIn (s : State) (es : List Event) : (s.postEvents es).timeIn = s.timeIn := by
  unfold State.postEvents; split <;> rfl

@[simp] theorem State.postEvents_msgOut (s : State) (es : List Event) : (s.postEvents es).msgOut = s.msgOut := by
  unfold State.postEvents; split <;> rfl

@[simp] theorem State.postEvents_dbgOut (s : State) (es : List Event) :
    (s.postEvents es).dbgOut = if s.params.debugEvents then s.dbgOut ++ es else s.dbgOut := by
  unfold State.postEvents; split <;> rfl

@[simp] theorem State.postEvents_rxBytes (s : State) (es : List Event) : (s.postEvents es).rxBytes = s.rxBytes := by
  unfold State.postEvents; split <;> rfl

@[simp] theorem State.postEvents_draws (s : State) (es : List Event) : (s.postEvents es).draws = s.draws := by
  unfold State.postEvents; split <;> rfl

@[simp] theorem State.postEvents_sched (s : State) (es : List Event) : (s.postEvents es).sched = s.sched := by
  unfold State.postEvents; split <;> rfl

/-- Events change nothing but `dbg_out`, and that only with `DEBUG_EVENTS` (60_exceptions.md R302). -/
theorem State.postEvents_eq (s : State) (es : List Event) :
    s.postEvents es = { s with dbgOut := if s.params.debugEvents then s.dbgOut ++ es else s.dbgOut } := by
  unfold State.postEvents; split <;> simp_all

/-- No event changes nothing. -/
@[simp] theorem State.postEvents_nil (s : State) : s.postEvents [] = s := by
  unfold State.postEvents; split <;> simp

/-! Waiting. -/

@[simp] theorem State.requeue_params (s : State) (i : Instr) : (s.requeue i).params = s.params := rfl

@[simp] theorem State.requeue_cfg (s : State) (i : Instr) : (s.requeue i).cfg = s.cfg := rfl

@[simp] theorem State.requeue_mod (s : State) (i : Instr) : (s.requeue i).mod = s.mod := rfl

@[simp] theorem State.requeue_dem (s : State) (i : Instr) : (s.requeue i).dem = s.dem := rfl

@[simp] theorem State.requeue_seqCtr (s : State) (i : Instr) : (s.requeue i).seqCtr = s.seqCtr := rfl

@[simp] theorem State.requeue_fdec (s : State) (i : Instr) : (s.requeue i).fdec = s.fdec := rfl

@[simp] theorem State.requeue_cmdIn (s : State) (i : Instr) : (s.requeue i).cmdIn = encode i :: s.cmdIn := rfl

@[simp] theorem State.requeue_rspOut (s : State) (i : Instr) : (s.requeue i).rspOut = s.rspOut := rfl

@[simp] theorem State.requeue_pcmOut (s : State) (i : Instr) : (s.requeue i).pcmOut = s.pcmOut := rfl

@[simp] theorem State.requeue_pcmIn (s : State) (i : Instr) : (s.requeue i).pcmIn = s.pcmIn := rfl

@[simp] theorem State.requeue_timeIn (s : State) (i : Instr) : (s.requeue i).timeIn = s.timeIn := rfl

@[simp] theorem State.requeue_msgOut (s : State) (i : Instr) : (s.requeue i).msgOut = s.msgOut := rfl

@[simp] theorem State.requeue_dbgOut (s : State) (i : Instr) : (s.requeue i).dbgOut = s.dbgOut := rfl

@[simp] theorem State.requeue_rxBytes (s : State) (i : Instr) : (s.requeue i).rxBytes = s.rxBytes := rfl

@[simp] theorem State.requeue_draws (s : State) (i : Instr) : (s.requeue i).draws = s.draws := rfl

@[simp] theorem State.requeue_sched (s : State) (i : Instr) : (s.requeue i).sched = s.sched := rfl

/-! Answers of MOD that wait for a call to end. -/

@[simp] theorem State.refuseMod_params (s : State) (st : Status) : (s.refuseMod st).params = s.params := by
  unfold State.refuseMod; split <;> rfl

@[simp] theorem State.refuseMod_cfg (s : State) (st : Status) : (s.refuseMod st).cfg = s.cfg := by
  unfold State.refuseMod; split <;> rfl

@[simp] theorem State.refuseMod_dem (s : State) (st : Status) : (s.refuseMod st).dem = s.dem := by
  unfold State.refuseMod; split <;> rfl

@[simp] theorem State.refuseMod_seqCtr (s : State) (st : Status) : (s.refuseMod st).seqCtr = s.seqCtr := by
  unfold State.refuseMod; split <;> rfl

@[simp] theorem State.refuseMod_fdec (s : State) (st : Status) : (s.refuseMod st).fdec = s.fdec := by
  unfold State.refuseMod; split <;> rfl

@[simp] theorem State.refuseMod_cmdIn (s : State) (st : Status) : (s.refuseMod st).cmdIn = s.cmdIn := by
  unfold State.refuseMod; split <;> rfl

@[simp] theorem State.refuseMod_pcmOut (s : State) (st : Status) : (s.refuseMod st).pcmOut = s.pcmOut := by
  unfold State.refuseMod; split <;> rfl

@[simp] theorem State.refuseMod_pcmIn (s : State) (st : Status) : (s.refuseMod st).pcmIn = s.pcmIn := by
  unfold State.refuseMod; split <;> rfl

@[simp] theorem State.refuseMod_timeIn (s : State) (st : Status) : (s.refuseMod st).timeIn = s.timeIn := by
  unfold State.refuseMod; split <;> rfl

@[simp] theorem State.refuseMod_msgOut (s : State) (st : Status) : (s.refuseMod st).msgOut = s.msgOut := by
  unfold State.refuseMod; split <;> rfl

@[simp] theorem State.refuseMod_dbgOut (s : State) (st : Status) : (s.refuseMod st).dbgOut = s.dbgOut := by
  unfold State.refuseMod; split <;> rfl

@[simp] theorem State.refuseMod_rxBytes (s : State) (st : Status) : (s.refuseMod st).rxBytes = s.rxBytes := by
  unfold State.refuseMod; split <;> rfl

@[simp] theorem State.refuseMod_draws (s : State) (st : Status) : (s.refuseMod st).draws = s.draws := by
  unfold State.refuseMod; split <;> rfl

@[simp] theorem State.refuseMod_sched (s : State) (st : Status) : (s.refuseMod st).sched = s.sched := by
  unfold State.refuseMod; split <;> rfl

@[simp] theorem State.refuseMod_mod (s : State) (st : Status) :
    (s.refuseMod st).mod =
      if s.mod.active then { s.mod with late := s.mod.late ++ [{ status := st, value := .none }] } else s.mod := by
  unfold State.refuseMod; split <;> rfl

@[simp] theorem State.refuseMod_rspOut (s : State) (st : Status) :
    (s.refuseMod st).rspOut = if s.mod.active then s.rspOut else s.rspOut ++ [{ status := st, value := .none }] := by
  unfold State.refuseMod; split <;> rfl

/-- An idle modulator owes nothing, so a refusal is answered at once. -/
theorem State.refuseMod_idle (s : State) (st : Status) (h : s.mod.active = false) : s.refuseMod st = s.respond st .none := by
  simp [State.refuseMod, h]

@[simp] theorem State.sendLate_params (s : State) : s.sendLate.params = s.params := rfl

@[simp] theorem State.sendLate_cfg (s : State) : s.sendLate.cfg = s.cfg := rfl

@[simp] theorem State.sendLate_dem (s : State) : s.sendLate.dem = s.dem := rfl

@[simp] theorem State.sendLate_seqCtr (s : State) : s.sendLate.seqCtr = s.seqCtr := rfl

@[simp] theorem State.sendLate_fdec (s : State) : s.sendLate.fdec = s.fdec := rfl

@[simp] theorem State.sendLate_cmdIn (s : State) : s.sendLate.cmdIn = s.cmdIn := rfl

@[simp] theorem State.sendLate_pcmOut (s : State) : s.sendLate.pcmOut = s.pcmOut := rfl

@[simp] theorem State.sendLate_pcmIn (s : State) : s.sendLate.pcmIn = s.pcmIn := rfl

@[simp] theorem State.sendLate_timeIn (s : State) : s.sendLate.timeIn = s.timeIn := rfl

@[simp] theorem State.sendLate_msgOut (s : State) : s.sendLate.msgOut = s.msgOut := rfl

@[simp] theorem State.sendLate_dbgOut (s : State) : s.sendLate.dbgOut = s.dbgOut := rfl

@[simp] theorem State.sendLate_rxBytes (s : State) : s.sendLate.rxBytes = s.rxBytes := rfl

@[simp] theorem State.sendLate_draws (s : State) : s.sendLate.draws = s.draws := rfl

@[simp] theorem State.sendLate_sched (s : State) : s.sendLate.sched = s.sched := rfl

@[simp] theorem State.sendLate_mod (s : State) : s.sendLate.mod = { s.mod with late := [] } := rfl

@[simp] theorem State.sendLate_rspOut (s : State) : s.sendLate.rspOut = s.rspOut ++ s.mod.late := rfl

/-! Initialising. -/

@[simp] theorem State.coreReset_params (s : State) : s.coreReset.params = s.params := rfl

@[simp] theorem State.coreReset_cfg (s : State) : s.coreReset.cfg = CfgRegs.reset := rfl

@[simp] theorem State.coreReset_mod (s : State) : s.coreReset.mod = ModRegs.reset := rfl

@[simp] theorem State.coreReset_dem (s : State) : s.coreReset.dem = s.dem.coreReset := rfl

@[simp] theorem State.coreReset_seqCtr (s : State) : s.coreReset.seqCtr = 0#32 := rfl

@[simp] theorem State.coreReset_fdec (s : State) : s.coreReset.fdec = FdecRegs.reset := rfl

@[simp] theorem State.coreReset_cmdIn (s : State) : s.coreReset.cmdIn = s.cmdIn := rfl

@[simp] theorem State.coreReset_rspOut (s : State) : s.coreReset.rspOut = s.rspOut ++ s.mod.late := rfl

@[simp] theorem State.coreReset_pcmOut (s : State) : s.coreReset.pcmOut = s.pcmOut := rfl

@[simp] theorem State.coreReset_pcmIn (s : State) : s.coreReset.pcmIn = s.pcmIn := rfl

@[simp] theorem State.coreReset_timeIn (s : State) : s.coreReset.timeIn = s.timeIn := rfl

@[simp] theorem State.coreReset_msgOut (s : State) : s.coreReset.msgOut = s.msgOut := rfl

@[simp] theorem State.coreReset_dbgOut (s : State) : s.coreReset.dbgOut = s.dbgOut := rfl

@[simp] theorem State.coreReset_rxBytes (s : State) : s.coreReset.rxBytes = [] := rfl

@[simp] theorem State.coreReset_draws (s : State) : s.coreReset.draws = s.draws := rfl

@[simp] theorem State.coreReset_sched (s : State) : s.coreReset.sched = s.sched := rfl

@[simp] theorem DemRegs.init_rxWin (sps : Nat) (d : DemRegs) : (d.init sps).rxWin = unspecifiedWindow d.draws sps := rfl

@[simp] theorem DemRegs.init_rxFill (sps : Nat) (d : DemRegs) : (d.init sps).rxFill = 0 := rfl

@[simp] theorem DemRegs.init_rxShift (sps : Nat) (d : DemRegs) : (d.init sps).rxShift = 0#8 := rfl

@[simp] theorem DemRegs.init_rxBitcnt (sps : Nat) (d : DemRegs) : (d.init sps).rxBitcnt = 0 := rfl

@[simp] theorem DemRegs.init_fftBuf (sps : Nat) (d : DemRegs) : (d.init sps).fftBuf = d.fftBuf := rfl

@[simp] theorem DemRegs.init_draws (sps : Nat) (d : DemRegs) : (d.init sps).draws = d.draws + 1 := rfl

@[simp] theorem DemRegs.init_op (sps : Nat) (d : DemRegs) : (d.init sps).op = d.op := rfl

@[simp] theorem DemRegs.fit_rxFill (sps : Nat) (d : DemRegs) : (d.fit sps).rxFill = d.rxFill := by
  unfold DemRegs.fit; split <;> rfl

@[simp] theorem DemRegs.fit_rxShift (sps : Nat) (d : DemRegs) : (d.fit sps).rxShift = d.rxShift := by
  unfold DemRegs.fit; split <;> rfl

@[simp] theorem DemRegs.fit_rxBitcnt (sps : Nat) (d : DemRegs) : (d.fit sps).rxBitcnt = d.rxBitcnt := by
  unfold DemRegs.fit; split <;> rfl

@[simp] theorem DemRegs.fit_fftBuf (sps : Nat) (d : DemRegs) : (d.fit sps).fftBuf = d.fftBuf := by
  unfold DemRegs.fit; split <;> rfl

@[simp] theorem DemRegs.fit_op (sps : Nat) (d : DemRegs) : (d.fit sps).op = d.op := by
  unfold DemRegs.fit; split <;> rfl

/-- An unspecified window has as many elements as asked for. -/
@[simp] theorem unspecifiedWindow_length (draw sps : Nat) : (unspecifiedWindow draw sps).length = sps := by
  simp [unspecifiedWindow]

/-- `rx_win` has the size it is fitted to (20_memory.md R61). -/
@[simp] theorem DemRegs.fit_rxWin_length (sps : Nat) (d : DemRegs) : (d.fit sps).rxWin.length = sps := by
  unfold DemRegs.fit
  split
  · next h => simp [h]
  · next h => simp; omega

/-- Fitting `rx_win` keeps the elements that are still there. -/
theorem DemRegs.fit_rxWin_getElem? (sps : Nat) (d : DemRegs) (i : Nat) (h : i < sps) (hi : i < d.rxWin.length) :
    (d.fit sps).rxWin[i]? = d.rxWin[i]? := by
  unfold DemRegs.fit
  split
  · simp [h]
  · simp [List.getElem?_append_left hi]

/-- A window of the right size is left alone. -/
theorem DemRegs.fit_of_length (sps : Nat) (d : DemRegs) (h : d.rxWin.length = sps) : d.fit sps = d := by
  subst h
  simp [DemRegs.fit]

@[simp] theorem DemRegs.coreReset_rxWin (d : DemRegs) : d.coreReset.rxWin = [] := rfl

@[simp] theorem DemRegs.coreReset_rxFill (d : DemRegs) : d.coreReset.rxFill = 0 := rfl

@[simp] theorem DemRegs.coreReset_rxShift (d : DemRegs) : d.coreReset.rxShift = 0#8 := rfl

@[simp] theorem DemRegs.coreReset_rxBitcnt (d : DemRegs) : d.coreReset.rxBitcnt = 0 := rfl

@[simp] theorem DemRegs.coreReset_fftBuf (d : DemRegs) : d.coreReset.fftBuf = { draw := d.draws } := rfl

@[simp] theorem DemRegs.coreReset_draws (d : DemRegs) : d.coreReset.draws = d.draws + 1 := rfl

@[simp] theorem DemRegs.coreReset_op (d : DemRegs) : d.coreReset.op = none := rfl

@[simp] theorem FdecRegs.resync_tag (r : FdecRegs) : r.resync.tag = .wp := rfl

@[simp] theorem FdecRegs.resync_buf (r : FdecRegs) : r.resync.buf = r.buf := rfl

@[simp] theorem FdecRegs.resync_len (r : FdecRegs) : r.resync.len = 0 := rfl

@[simp] theorem FdecRegs.resync_pay (r : FdecRegs) : r.resync.pay = [] := rfl

@[simp] theorem FdecRegs.resync_op (r : FdecRegs) : r.resync.op = r.op := rfl

/-! The configuration unit. -/

@[simp] theorem CfgRegs.writeConf_conf (r : CfgRegs) (c : ModConfig) : (r.writeConf c).conf = c := rfl

@[simp] theorem CfgRegs.writeConf_sps (r : CfgRegs) (c : ModConfig) : (r.writeConf c).sps = r.sps := rfl

@[simp] theorem CfgRegs.writeConf_rampN (r : CfgRegs) (c : ModConfig) : (r.writeConf c).rampN = r.rampN := rfl

@[simp] theorem CfgRegs.writeConf_fftN (r : CfgRegs) (c : ModConfig) : (r.writeConf c).fftN = r.fftN := rfl

@[simp] theorem CfgRegs.writeConf_bin0 (r : CfgRegs) (c : ModConfig) : (r.writeConf c).bin0 = r.bin0 := rfl

@[simp] theorem CfgRegs.writeConf_bin1 (r : CfgRegs) (c : ModConfig) : (r.writeConf c).bin1 = r.bin1 := rfl

@[simp] theorem CfgRegs.writeConf_fftPlan (r : CfgRegs) (c : ModConfig) : (r.writeConf c).fftPlan = r.fftPlan := rfl

@[simp] theorem CfgRegs.writeConf_cfgValid (r : CfgRegs) (c : ModConfig) : (r.writeConf c).cfgValid = false := rfl

@[simp] theorem CfgRegs.writeConf_demValid (r : CfgRegs) (c : ModConfig) : (r.writeConf c).demValid = false := rfl

@[simp] theorem CfgRegs.deriveSymbol_conf (r : CfgRegs) : r.deriveSymbol.conf = r.conf := rfl

@[simp] theorem CfgRegs.deriveSymbol_sps (r : CfgRegs) :
    r.deriveSymbol.sps = roundHalfUp (r.conf.sampleRate * r.conf.symbolDuration) := rfl

@[simp] theorem CfgRegs.deriveSymbol_rampN (r : CfgRegs) :
    r.deriveSymbol.rampN = roundHalfUp (r.conf.sampleRate * r.conf.rampDuration) := rfl

@[simp] theorem CfgRegs.deriveSymbol_fftN (r : CfgRegs) : r.deriveSymbol.fftN = r.fftN := rfl

@[simp] theorem CfgRegs.deriveSymbol_bin0 (r : CfgRegs) : r.deriveSymbol.bin0 = r.bin0 := rfl

@[simp] theorem CfgRegs.deriveSymbol_bin1 (r : CfgRegs) : r.deriveSymbol.bin1 = r.bin1 := rfl

@[simp] theorem CfgRegs.deriveSymbol_fftPlan (r : CfgRegs) : r.deriveSymbol.fftPlan = r.fftPlan := rfl

@[simp] theorem CfgRegs.deriveSymbol_cfgValid (r : CfgRegs) : r.deriveSymbol.cfgValid = r.cfgValid := rfl

@[simp] theorem CfgRegs.deriveSymbol_demValid (r : CfgRegs) : r.deriveSymbol.demValid = r.demValid := rfl

@[simp] theorem CfgRegs.deriveTransform_conf (r : CfgRegs) : r.deriveTransform.conf = r.conf := rfl

@[simp] theorem CfgRegs.deriveTransform_sps (r : CfgRegs) : r.deriveTransform.sps = r.sps := rfl

@[simp] theorem CfgRegs.deriveTransform_rampN (r : CfgRegs) : r.deriveTransform.rampN = r.rampN := rfl

@[simp] theorem CfgRegs.deriveTransform_fftN (r : CfgRegs) : r.deriveTransform.fftN = pow2AtLeast r.sps := rfl

@[simp] theorem CfgRegs.deriveTransform_bin0 (r : CfgRegs) :
    r.deriveTransform.bin0 = targetBin r.conf.freq0 r.conf.sampleRate (pow2AtLeast r.sps) := rfl

@[simp] theorem CfgRegs.deriveTransform_bin1 (r : CfgRegs) :
    r.deriveTransform.bin1 = targetBin r.conf.freq1 r.conf.sampleRate (pow2AtLeast r.sps) := rfl

@[simp] theorem CfgRegs.deriveTransform_fftPlan (r : CfgRegs) : r.deriveTransform.fftPlan = pow2AtLeast r.sps := rfl

@[simp] theorem CfgRegs.deriveTransform_cfgValid (r : CfgRegs) : r.deriveTransform.cfgValid = true := rfl

@[simp] theorem CfgRegs.deriveTransform_demValid (r : CfgRegs) : r.deriveTransform.demValid = r.demValid := rfl

/-! The demodulator. -/

@[simp] theorem DemRegs.store_rxWin (d : DemRegs) (x : Sample) : (d.store x).rxWin = writeAt d.rxWin d.rxFill x := rfl

@[simp] theorem DemRegs.store_rxFill (d : DemRegs) (x : Sample) : (d.store x).rxFill = d.rxFill + 1 := rfl

@[simp] theorem DemRegs.store_rxShift (d : DemRegs) (x : Sample) : (d.store x).rxShift = d.rxShift := rfl

@[simp] theorem DemRegs.store_rxBitcnt (d : DemRegs) (x : Sample) : (d.store x).rxBitcnt = d.rxBitcnt := rfl

@[simp] theorem DemRegs.store_fftBuf (d : DemRegs) (x : Sample) : (d.store x).fftBuf = d.fftBuf := rfl

@[simp] theorem DemRegs.store_draws (d : DemRegs) (x : Sample) : (d.store x).draws = d.draws := rfl

@[simp] theorem DemRegs.store_op (d : DemRegs) (x : Sample) : (d.store x).op = d.op := rfl

@[simp] theorem DemRegs.classify_rxWin (p : Params) (c : CfgRegs) (d : DemRegs) (w : List Sample) :
    (d.classify p c w).2.rxWin = d.rxWin := rfl

@[simp] theorem DemRegs.classify_rxFill (p : Params) (c : CfgRegs) (d : DemRegs) (w : List Sample) :
    (d.classify p c w).2.rxFill = d.rxFill := rfl

@[simp] theorem DemRegs.classify_rxShift (p : Params) (c : CfgRegs) (d : DemRegs) (w : List Sample) :
    (d.classify p c w).2.rxShift = d.rxShift := rfl

@[simp] theorem DemRegs.classify_rxBitcnt (p : Params) (c : CfgRegs) (d : DemRegs) (w : List Sample) :
    (d.classify p c w).2.rxBitcnt = d.rxBitcnt := rfl

@[simp] theorem DemRegs.classify_fftBuf (p : Params) (c : CfgRegs) (d : DemRegs) (w : List Sample) :
    (d.classify p c w).2.fftBuf = { draw := d.draws } := rfl

@[simp] theorem DemRegs.classify_draws (p : Params) (c : CfgRegs) (d : DemRegs) (w : List Sample) :
    (d.classify p c w).2.draws = d.draws + 1 := rfl

@[simp] theorem DemRegs.classify_op (p : Params) (c : CfgRegs) (d : DemRegs) (w : List Sample) :
    (d.classify p c w).2.op = d.op := rfl

end Sys2Proof.Machine
end

