-- ==== Sys2Proof/Laws/FrameDecoder.lean ====
section
/-!
SUPPORT. What the shared operations of the frame decoder can do: one rule, `feed_byte`, and an FDEC.FEED run to its end.
-/
namespace Sys2Proof.Machine

/-! The preamble scan. -/

/-- The scan finds the lowest offset at which eight preamble bytes stand (44_frame_decoder.md R243). -/
theorem findPreamble_eq_some {buf : List Byte} {k : Nat} (h : findPreamble buf = some k) :
    (buf.drop k).take Config.preambleLen = List.replicate Config.preambleLen Config.preambleByte ∧
    ∀ j < k, (buf.drop j).take Config.preambleLen ≠ List.replicate Config.preambleLen Config.preambleByte := by
  induction buf generalizing k with
  | nil => simp [findPreamble] at h
  | cons b rest ih =>
    simp only [findPreamble] at h
    split at h
    · next h0 =>
      obtain rfl : 0 = k := by simpa using h
      exact ⟨h0, by simp⟩
    · next h0 =>
      obtain ⟨j, hj, rfl⟩ := Option.map_eq_some_iff.mp h
      refine ⟨(ih hj).1, fun i hi => ?_⟩
      cases i with
      | zero => exact h0
      | succ i => exact (ih hj).2 i (by omega)

/-- Without a match no offset has eight preamble bytes (44_frame_decoder.md R244). -/
theorem findPreamble_eq_none {buf : List Byte} (h : findPreamble buf = none) (j : Nat) :
    (buf.drop j).take Config.preambleLen ≠ List.replicate Config.preambleLen Config.preambleByte := by
  induction buf generalizing j with
  | nil => simp [Config.preambleLen]
  | cons b rest ih =>
    simp only [findPreamble] at h
    split at h
    · cases h
    · next h0 =>
      cases j with
      | zero => exact h0
      | succ j => exact ih (Option.map_eq_none_iff.mp h) j

/-- The scan succeeds exactly on a buffer with a preamble in it. -/
theorem findPreamble_isSome_iff (buf : List Byte) :
    (findPreamble buf).isSome = true ↔
      List.replicate Config.preambleLen Config.preambleByte <:+: buf := by
  constructor
  · intro h
    obtain ⟨k, hk⟩ := Option.isSome_iff_exists.mp h
    rw [← (findPreamble_eq_some hk).1]
    exact (List.take_prefix _ _).isInfix.trans (List.drop_suffix _ _).isInfix
  · rintro ⟨a, c, rfl⟩
    by_contra hn
    have := findPreamble_eq_none (Option.not_isSome_iff_eq_none.mp hn) a.length
    simp [Config.preambleLen] at this

/-! One rule. -/

/-- A rule leaves the operation in progress alone. -/
@[simp] theorem fdecRule_op (f : TextFormat) (r : FdecRegs) : (fdecRule f r).regs.op = r.op := by
  unfold fdecRule ruleWp ruleWs ruleRl ruleRm ruleWe ruleWait FdecRegs.resync
  cases r.tag <;> dsimp only <;> repeat' (first | rfl | split)

/-- A rule does not look at the operation in progress. -/
theorem fdecRule_withOp (f : TextFormat) (r : FdecRegs) (o : Option FeedOp) :
    fdecRule f { r with op := o } = { fdecRule f r with regs := { (fdecRule f r).regs with op := o } } := by
  obtain ⟨tag, buf, len, pay, op⟩ := r
  unfold fdecRule ruleWp ruleWs ruleRl ruleRm ruleWe ruleWait FdecRegs.resync
  cases tag <;> dsimp only <;> repeat' (first | rfl | split)

/-- A rule never makes the buffer longer (44_frame_decoder.md R255). -/
theorem fdecRule_buf_le (f : TextFormat) (r : FdecRegs) : (fdecRule f r).regs.buf.length ≤ r.buf.length := by
  unfold fdecRule ruleWp ruleWs ruleRl ruleRm ruleWe ruleWait FdecRegs.resync
  cases r.tag <;> dsimp only <;> repeat' (first | (simp_all; done) | (simp_all; omega) | split)

/-- Every Message a rule emits has a checksum that verifies (44_frame_decoder.md R250, R254). -/
theorem fdecRule_msgs_verify (f : TextFormat) (r : FdecRegs) (m : Message) (h : m ∈ (fdecRule f r).msgs) : verifyMessage f m = true := by
  have key : ∀ pay x, deserVerify f pay = .ok x → verifyMessage f x = true := by
    intro pay x hx
    unfold deserVerify at hx
    split at hx
    · cases hx
    · split at hx <;> cases hx
      assumption
  revert h
  unfold fdecRule ruleWp ruleWs ruleRl ruleRm ruleWe ruleWait
  cases r.tag <;> dsimp only <;> repeat' (first | (simp; done) | split)
  next hx => intro hm; simp only [List.mem_singleton] at hm; subst hm; exact key _ _ hx

/-! Rules until one says "wait". -/

/-- The rules do not look at the operation in progress. -/
theorem fdecRules_withOp (f : TextFormat) (n : Nat) (r : FdecRegs) (o : Option FeedOp) :
    fdecRules f n { r with op := o } = ({ (fdecRules f n r).1 with op := o }, (fdecRules f n r).2) := by
  induction n generalizing r with
  | zero => rfl
  | succ n ih =>
    simp only [fdecRules, fdecRule_withOp]
    split
    · rw [ih]
    · rfl

/-! `feed_byte`. -/

/-- `feed_byte` does not look at the operation in progress. -/
theorem feedByte_withOp (p : Params) (r : FdecRegs) (b : Byte) (o : Option FeedOp) :
    feedByte p { r with op := o } b = ({ (feedByte p r b).1 with op := o }, (feedByte p r b).2) := by
  have h : FdecRegs.append p { r with op := o } b = ({ (r.append p b).1 with op := o }, (r.append p b).2) := by
    unfold FdecRegs.append FdecRegs.resync; dsimp only; split <;> rfl
  simp only [feedByte, h, fdecRules_withOp, FdecRegs.rulesEnough]

/-- `feed_byte` leaves the operation in progress alone. -/
@[simp] theorem feedByte_op (p : Params) (r : FdecRegs) (b : Byte) : (feedByte p r b).1.op = r.op := by
  have := congrArg (fun x => x.1.op) (feedByte_withOp p r b r.op)
  simpa using this

/-- `feed_byte` over a concatenation, piece by piece (44_frame_decoder.md R240). -/
theorem feedBytes_append (p : Params) (r : FdecRegs) (a b : List Byte) :
    feedBytes p r (a ++ b) =
      ((feedBytes p (feedBytes p r a).1 b).1, (feedBytes p r a).2.1 ++ (feedBytes p (feedBytes p r a).1 b).2.1,
        (feedBytes p r a).2.2 ++ (feedBytes p (feedBytes p r a).1 b).2.2) := by
  induction a generalizing r with
  | nil => simp [feedBytes]
  | cons x a ih => simp [feedBytes, ih]

/-- Bytes fed leave the operation in progress alone. -/
@[simp] theorem feedBytes_op (p : Params) (r : FdecRegs) (bytes : List Byte) : (feedBytes p r bytes).1.op = r.op := by
  induction bytes generalizing r with
  | nil => rfl
  | cons b rest ih => simp [feedBytes, ih]

/-- Bytes fed do not look at the operation in progress. -/
theorem feedBytes_withOp (p : Params) (r : FdecRegs) (bytes : List Byte) (o : Option FeedOp) :
    feedBytes p { r with op := o } bytes = ({ (feedBytes p r bytes).1 with op := o }, (feedBytes p r bytes).2) := by
  induction bytes generalizing r with
  | nil => rfl
  | cons b rest ih => simp only [feedBytes, feedByte_withOp, ih]

/-! An FDEC.FEED run to its end. -/

/-- Everything an FDEC.FEED in progress does when it runs to its end: the bytes left are fed, the events posted, and one answer carries
all Messages. -/
theorem State.feedConsumeAll_eq (n : Nat) (s : State) (rest : List Byte) (ms : List Message)
    (h : s.fdec.op = some { rest := rest, out := ms }) (hr : rest ≠ []) (hn : rest.length ≤ n) :
    s.feedConsumeAll n = { s with
      fdec := { (feedBytes s.params s.fdec rest).1 with op := none }
      dbgOut := if s.params.debugEvents then s.dbgOut ++ (feedBytes s.params s.fdec rest).2.2 else s.dbgOut
      rspOut := s.rspOut ++ [{ status := .ok, value := .messages (ms ++ (feedBytes s.params s.fdec rest).2.1) }] } := by
  have idle : ∀ (k : Nat) (t : State), t.fdec.op = none → t.feedConsumeAll k = t := by
    intro k
    induction k with
    | zero => intro t _; rfl
    | succ k ih => intro t ht; simp [State.feedConsumeAll, State.feedConsume, ht, ih]
  induction n generalizing s rest ms with
  | zero => simp_all
  | succ n ih =>
    obtain ⟨b, rest, rfl⟩ := List.exists_cons_of_ne_nil hr
    simp only [State.feedConsumeAll, State.feedConsume, h]
    cases rest with
    | nil =>
      rw [idle]
      · simp only [State.feedComplete, State.postEvents_fdec]
        simp [State.postEvents_eq, State.respond, feedBytes]
      · simp [State.feedComplete]
    | cons c rest =>
      rw [show ∀ t : State, t.fdec.op = some { rest := c :: rest, out := ms ++ (feedByte s.params s.fdec b).2.1 } →
        t.feedComplete = t by intro t ht; simp [State.feedComplete, ht]]
      · rw [ih _ (c :: rest) (ms ++ (feedByte s.params s.fdec b).2.1) (by simp) (by simp) (by simpa using hn)]
        simp only [State.postEvents_eq, feedBytes_withOp]
        simp only [feedBytes]
        split <;> simp_all
      · simp

end Sys2Proof.Machine
end

