-- ==== Sys2Proof/Laws/Demodulator.lean ====
section
/-!
SUPPORT. What the shared operations of the demodulator and of the receive pipeline can do: the per-sample step, and DEM.PUSH, DEM.DECODE and
RX.RECV run to their ends.
-/
namespace Sys2Proof.Machine

/-! Buffers. -/

/-- A write keeps the size of the buffer. -/
@[simp] theorem writeAt_length {α : Type} (l : List α) (i : Nat) (x : α) : (writeAt l i x).length = l.length := by
  simp [writeAt]

/-- What stands before the written place, and in it. -/
theorem take_writeAt {α : Type} (l : List α) (i : Nat) (x : α) (h : i < l.length) :
    (writeAt l i x).take (i + 1) = l.take i ++ [x] := by
  simp [writeAt, List.take_add_one, h, List.take_set_of_le]

/-! The per-sample step. -/

/-- Everything one sample can do (42_demodulator.md R183 to R186): it is stored; the window it completes is classified and its bit
shifted in; the byte this completes comes out. -/
theorem DemRegs.pushSample_eq (p : Params) (c : CfgRegs) (d : DemRegs) (x : Sample) :
    d.pushSample p c x =
      if d.rxFill + 1 < c.sps then ([], d.store x)
      else
        let bit := windowBit p c (Config.detectorBit d.draws) ((writeAt d.rxWin d.rxFill x).take c.sps)
        let b := (d.rxShift <<< 1) ||| (BitVec.ofBool bit).setWidth 8
        let d' : DemRegs := { d with
          rxWin := writeAt d.rxWin d.rxFill x, rxFill := 0, fftBuf := { draw := d.draws }, draws := d.draws + 1 }
        if d.rxBitcnt + 1 = 8 then ([b], { d' with rxShift := 0#8, rxBitcnt := 0 })
        else ([], { d' with rxShift := b, rxBitcnt := d.rxBitcnt + 1 }) := by
  unfold DemRegs.pushSample DemRegs.classify DemRegs.shiftIn DemRegs.store
  dsimp only

/-- The per-sample step does not look at the operation in progress. -/
theorem DemRegs.pushSample_withOp (p : Params) (c : CfgRegs) (d : DemRegs) (x : Sample) (o : Option DemOp) :
    DemRegs.pushSample p c { d with op := o } x = ((d.pushSample p c x).1, { (d.pushSample p c x).2 with op := o }) := by
  simp only [DemRegs.pushSample_eq, DemRegs.store]
  split
  · rfl
  · split <;> rfl

/-- The per-sample step leaves the operation in progress alone. -/
@[simp] theorem DemRegs.pushSample_op (p : Params) (c : CfgRegs) (d : DemRegs) (x : Sample) :
    (d.pushSample p c x).2.op = d.op := by
  have := congrArg (fun r => r.2.op) (DemRegs.pushSample_withOp p c d x d.op)
  simpa using this

/-- A chunk leaves the operation in progress alone. -/
@[simp] theorem DemRegs.pushSamples_op (p : Params) (c : CfgRegs) (d : DemRegs) (w : List Sample) :
    (d.pushSamples p c w).2.op = d.op := by
  induction w generalizing d with
  | nil => rfl
  | cons x w ih => simp [DemRegs.pushSamples, ih]

/-- A chunk does not look at the operation in progress. -/
theorem DemRegs.pushSamples_withOp (p : Params) (c : CfgRegs) (d : DemRegs) (w : List Sample) (o : Option DemOp) :
    DemRegs.pushSamples p c { d with op := o } w = ((d.pushSamples p c w).1, { (d.pushSamples p c w).2 with op := o }) := by
  induction w generalizing d with
  | nil => rfl
  | cons x w ih => simp only [DemRegs.pushSamples, DemRegs.pushSample_withOp, ih]

/-! DEM.PUSH and DEM.DECODE run to their ends. -/

/-- With no DEM operation in progress there is nothing to consume. -/
theorem State.demConsumeAll_idle (n : Nat) (s : State) (h : s.dem.op = none) : s.demConsumeAll n = s := by
  induction n generalizing s with
  | zero => rfl
  | succ n ih => simp [State.demConsumeAll, State.demConsume, h, ih]

/-- Everything a DEM.PUSH in progress does when it runs to its end. -/
theorem State.demConsumeAll_push (n : Nat) (s : State) (rest : List Sample) (out : List Byte)
    (h : s.dem.op = some (.push rest out)) (hr : rest ≠ []) (hn : rest.length ≤ n) :
    s.demConsumeAll n = { s with
      dem := { (s.dem.pushSamples s.params s.cfg rest).2 with op := none }
      rspOut := s.rspOut ++
        [{ status := .ok, value := .bytes (out ++ (s.dem.pushSamples s.params s.cfg rest).1) }] } := by
  induction n generalizing s rest out with
  | zero => simp_all
  | succ n ih =>
    obtain ⟨x, rest, rfl⟩ := List.exists_cons_of_ne_nil hr
    simp only [State.demConsumeAll, State.demConsume, h]
    cases rest with
    | nil =>
      rw [State.demConsumeAll_idle]
      · simp [State.demComplete, State.respond, DemRegs.pushSamples]
      · simp [State.demComplete]
    | cons y rest =>
      simp only [State.demComplete]
      rw [ih _ (y :: rest) (out ++ (s.dem.pushSample s.params s.cfg x).1) rfl (by simp) (by simpa using hn)]
      simp only [DemRegs.pushSamples_withOp]
      simp [DemRegs.pushSamples]

/-- Everything a DEM.DECODE in progress does when it runs to its end, its second DEM.INIT included (42_demodulator.md R188). -/
theorem State.demConsumeAll_decode (n : Nat) (s : State) (rest : List Sample) (out : List Byte)
    (h : s.dem.op = some (.decode rest out)) (hr : rest ≠ []) (hn : rest.length ≤ n) :
    s.demConsumeAll n = { s with
      dem := { (s.dem.pushSamples s.params s.cfg rest).2.init s.cfg.sps with op := none }
      rspOut := s.rspOut ++
        [{ status := .ok, value := .bytes (out ++ (s.dem.pushSamples s.params s.cfg rest).1) }] } := by
  induction n generalizing s rest out with
  | zero => simp_all
  | succ n ih =>
    obtain ⟨x, rest, rfl⟩ := List.exists_cons_of_ne_nil hr
    simp only [State.demConsumeAll, State.demConsume, h]
    cases rest with
    | nil =>
      rw [State.demConsumeAll_idle]
      · simp [State.demComplete, State.respond, DemRegs.pushSamples, DemRegs.init]
      · simp [State.demComplete]
    | cons y rest =>
      simp only [State.demComplete]
      rw [ih _ (y :: rest) (out ++ (s.dem.pushSample s.params s.cfg x).1) rfl (by simp) (by simpa using hn)]
      simp only [DemRegs.pushSamples_withOp]
      simp [DemRegs.pushSamples, DemRegs.init]

/-! RX.RECV. -/

/-- One sample of the body of RX.RECV (45_composition.md R283) with nothing in flight on `rx_bytes`. -/
theorem State.recvSample_eq (s : State) (x : Sample) (h : s.rxBytes = []) :
    s.recvSample x =
      let r := s.dem.pushSample s.params s.cfg x
      let f := feedBytes s.params s.fdec r.1
      (f.2.1.length, { s with
        dem := r.2, fdec := f.1, msgOut := s.msgOut ++ f.2.1
        dbgOut := if s.params.debugEvents then s.dbgOut ++ f.2.2 else s.dbgOut }) := by
  simp [State.recvSample, State.drainRxBytes, State.postEvents_eq, h]

/-- Everything an RX.RECV in progress does with the next `k` samples when they are there: DEM and FDEC work on them, the Messages go
out, and it answers if these were the last. -/
theorem State.recvConsumeAll_eq (k left sent : Nat) (s : State) (h : s.dem.op = some (.recv left sent))
    (hx : s.rxBytes = []) (hl : 0 < left) (hk : k ≤ left) (hp : k ≤ s.pcmIn.length) :
    s.recvConsumeAll k =
      let r := s.dem.pushSamples s.params s.cfg (s.pcmIn.take k)
      let f := feedBytes s.params s.fdec r.1
      let t : State := { s with
        pcmIn := s.pcmIn.drop k, dem := r.2, fdec := f.1, msgOut := s.msgOut ++ f.2.1
        dbgOut := if s.params.debugEvents then s.dbgOut ++ f.2.2 else s.dbgOut }
      if k = left then
        { t with
          dem := { r.2 with op := none }
          rspOut := s.rspOut ++ [{ status := .ok, value := .count (sent + f.2.1.length) }] }
      else { t with dem := { r.2 with op := some (.recv (left - k) (sent + f.2.1.length)) } } := by
  induction k generalizing s left sent with
  | zero =>
    have : ¬ 0 = left := by omega
    obtain ⟨params, cfg, mod, dem, seqCtr, fdec, cmdIn, rspOut, pcmOut, pcmIn, timeIn, msgOut, dbgOut, rxBytes, draws, sched⟩ := s
    obtain ⟨w, fl, sh, bc, fb, dr, op⟩ := dem
    subst h
    simp [State.recvConsumeAll, DemRegs.pushSamples, feedBytes, this]
  | succ k ih =>
    obtain ⟨x, xs, hxs⟩ : ∃ x xs, s.pcmIn = x :: xs := List.exists_cons_of_length_pos (by omega)
    obtain ⟨left, rfl⟩ : ∃ l, left = l + 1 := ⟨left - 1, by omega⟩
    simp only [State.recvConsumeAll, State.recvConsume, h, hxs]
    rw [State.recvSample_eq _ _ (by simpa using hx)]
    cases left with
    | zero =>
      obtain rfl : k = 0 := by omega
      simp [State.demComplete, State.recvConsumeAll, State.respond, DemRegs.pushSamples]
    | succ left =>
      simp only [State.demComplete]
      rw [ih (left + 1) (sent + (feedBytes s.params s.fdec (s.dem.pushSample s.params s.cfg x).1).2.1.length) _ rfl
        (by exact hx) (by omega) (by omega) (by simp [hxs] at hp; exact hp)]
      simp only [DemRegs.pushSamples_withOp, DemRegs.pushSamples, List.take_succ_cons, feedBytes_append, List.drop_succ_cons]
      by_cases hk' : k = left + 1
      · subst hk'; simp; split <;> simp [Nat.add_assoc]
      · simp [hk', Nat.add_assoc]; split <;> simp

end Sys2Proof.Machine
end

