-- ==== Sys2Proof/Laws/Modulator.lean ====
section
/-!
SUPPORT. What the shared operations of the modulator can do: one atomic step, several of them, and the guard on a sample.
-/
namespace Sys2Proof.Machine

/-! Samples. -/

/-- What the guard lets through is finite and no larger than the amplitude when its replacement is (41_modulator.md R159). -/
theorem withinAmplitude_cases (c : CfgRegs) (x other : Sample) :
    (withinAmplitude c x other = x ∧ f32Finite x = true ∧ (f32Value x).abs ≤ c.conf.amplitude) ∨
      withinAmplitude c x other = other := by
  unfold withinAmplitude
  split
  · next h => exact .inl ⟨rfl, h⟩
  · exact .inr rfl

/-! The step machine. -/

/-- An idle modulator makes no step. -/
@[simp] theorem ModRegs.run_idle (p : Params) (c : CfgRegs) (n : Nat) (m : ModRegs) (h : m.active = false) :
    m.run p c n = ([], m) := by
  cases n <;> simp [ModRegs.run, h]

/-- Steps made in two portions. -/
theorem ModRegs.run_add (p : Params) (c : CfgRegs) (a b : Nat) (m : ModRegs) :
    m.run p c (a + b) = ((m.run p c a).1 ++ ((m.run p c a).2.run p c b).1, ((m.run p c a).2.run p c b).2) := by
  induction a generalizing m with
  | zero => simp [ModRegs.run]
  | succ a ih =>
    cases h : m.active with
    | false => simp [h]
    | true => simp [Nat.succ_add, ModRegs.run, h, ih]

/-- One step with a byte held emits one item and advances (41_modulator.md R153, R156). -/
theorem ModRegs.step_held (p : Params) (c : CfgRegs) (m : ModRegs) (ha : m.active = true) (hh : m.held = true) :
    m.step p c = ([m.item p c], m.advance c) := by
  simp [ModRegs.step, ha, hh]

/-- One step with no byte held takes one (41_modulator.md R152). -/
theorem ModRegs.step_take (p : Params) (c : CfgRegs) (m : ModRegs) (ha : m.active = true) (hh : m.held = false) :
    m.step p c = ([], m.take) := by
  simp [ModRegs.step, ha, hh]

/-- Everything the core does when MOD has made some steps (41_modulator.md R156). -/
theorem State.modAdvance_eq (s : State) (r : List PcmItem × ModRegs) :
    s.modAdvance r = { s with
      mod := if s.mod.active && !r.2.active then { r.2 with late := [] } else r.2
      pcmOut := s.pcmOut ++ r.1
      rspOut :=
        if s.mod.active && !r.2.active then s.rspOut ++ { status := .ok, value := .none } :: r.2.late else s.rspOut } := by
  unfold State.modAdvance
  dsimp only
  split <;> simp [State.respond, State.sendLate]

/-- One `tx_bytes` item for every byte. -/
@[simp] theorem txItems_length (bytes : List Byte) : (txItems bytes).length = bytes.length := by
  induction bytes with
  | nil => rfl
  | cons b rest ih => cases rest with
    | nil => rfl
    | cons c rest => simp [txItems] at ih ⊢; exact ih

/-- Number of items of a call (41_modulator.md R162). -/
@[simp] theorem encodedItems_length (p : Params) (c : CfgRegs) (bytes : List Byte) :
    (encodedItems p c bytes).length = 8 * bytes.length * c.sps := by
  simp [encodedItems, List.length_flatMap]

end Sys2Proof.Machine
end

