-- ==== Sys2Proof/Laws/Ops.lean ====
section
/-!
SUPPORT. What the shared operations can do: decoding a code, taking a request, the configuration checks and a load, the size of
`rx_win`, the 32-bit read port.
-/
namespace Sys2Proof.Machine

/-! Decoding. -/

/-- The operation a code names is the one whose code it is (30_encoding.md R119). -/
theorem decodeOpcode_eq_some {code : Byte} {op : Opcode} (h : decodeOpcode code = some op) : code = encodeOpcode op := by
  unfold decodeOpcode at h
  obtain ⟨⟨a, b⟩, h1, rfl⟩ := Option.map_eq_some_iff.mp h
  have he := List.find?_some h1
  simp only [beq_iff_eq] at he
  have hm := List.mem_of_find?_eq_some h1
  subst he
  have key : ∀ row ∈ opcodeTable, row.1 = encodeOpcode row.2 := by decide
  exact key _ hm

/-- A code with no row names no operation (30_encoding.md R116). -/
theorem decodeOpcode_eq_none {code : Byte} (h : code ∉ opcodeTable.map Prod.fst) : decodeOpcode code = none := by
  unfold decodeOpcode
  simp only [Option.map_eq_none_iff, List.find?_eq_none, beq_iff_eq]
  intro row hrow he
  exact h (he ▸ List.mem_map_of_mem hrow)

/-! Taking a request. -/

/-- A request at the front that need not wait is taken and served. -/
theorem State.serveNext_of_ready {s : State} {r : Request} {rest : List Request} (hc : s.cmdIn = r :: rest) (h : s.ready r = true) :
    s.serveNext = some ({ s with cmdIn := rest }.serve r) := by
  simp [State.serveNext, hc, h]

/-- The code of CORE.RESET (30_encoding.md R119) is all that makes a request one. -/
theorem isCoreReset_iff (r : Request) : isCoreReset r = true ↔ r.code = 0x00#8 := by
  unfold isCoreReset
  constructor
  · intro h
    exact decodeOpcode_eq_some (by simpa using h)
  · intro h
    rw [h]
    rfl

/-- Serving a CORE.RESET, whatever comes with it, runs it (60_exceptions.md R311, log 15). -/
theorem State.serve_of_isCoreReset {r : Request} (h : isCoreReset r = true) (s : State) : s.serve r = exec .coreReset s := by
  have hd : decodeOpcode r.code = some .coreReset := by simpa [isCoreReset] using h
  simp [State.serve, decode, hd, decodeOperands, Instr.wellFormed]

/-- A request at the front that has to wait holds back those behind it, if no CORE.RESET is among them (20_memory.md R63, log 20). -/
theorem State.serveNext_of_waits {s : State} {r : Request} {rest : List Request} (hc : s.cmdIn = r :: rest)
    (h : s.ready r = false) (hq : ∀ q ∈ rest, isCoreReset q = false) : s.serveNext = none := by
  have hf : rest.find? isCoreReset = none := List.find?_eq_none.mpr (fun q hm => by simp [hq q hm])
  simp [State.serveNext, hc, h, hf]

/-- The first CORE.RESET behind a request that has to wait is taken past those before it (70_reset_and_hazards.md R332, log 39). -/
theorem State.serveNext_of_reset {s : State} {r q : Request} {pre post : List Request} (hc : s.cmdIn = r :: (pre ++ q :: post))
    (h : s.ready r = false) (hp : ∀ x ∈ pre, isCoreReset x = false) (hq : isCoreReset q = true) :
    s.serveNext = some (exec .coreReset { s with cmdIn := r :: (pre ++ post) }) := by
  have hpf : pre.find? isCoreReset = none := List.find?_eq_none.mpr (fun x hm => by simp [hp x hm])
  have hf : (pre ++ q :: post).find? isCoreReset = some q := by simp [List.find?_append, hpf, hq]
  have he : (pre ++ q :: post).eraseP isCoreReset = pre ++ post := by
    rw [List.eraseP_append_right _ (fun x hm => by simp [hp x hm])]
    simp [hq]
  simp [State.serveNext, hc, h, hf, he, State.serve_of_isCoreReset hq]

/-- Everything the taking of a request can be: the request at the front, or a CORE.RESET past those that it does not wait for. -/
theorem State.serveNext_cases {s : State} {o : Host.Outcome State Fault Refusal} (h : s.serveNext = some o) :
    (∃ r rest, s.cmdIn = r :: rest ∧ s.ready r = true ∧ o = { s with cmdIn := rest }.serve r) ∨
    (∃ r pre q post, s.cmdIn = r :: (pre ++ q :: post) ∧ s.ready r = false ∧ (∀ x ∈ pre, isCoreReset x = false) ∧
      isCoreReset q = true ∧ o = exec .coreReset { s with cmdIn := r :: (pre ++ post) }) := by
  cases hc : s.cmdIn with
  | nil => simp [State.serveNext, hc] at h
  | cons r rest =>
    cases hr : s.ready r with
    | true =>
      rw [State.serveNext_of_ready hc hr] at h
      exact .inl ⟨r, rest, rfl, hr, (Option.some.inj h).symm⟩
    | false =>
      cases hf : rest.find? isCoreReset with
      | none => simp [State.serveNext, hc, hr, hf] at h
      | some q =>
        obtain ⟨hq, pre, post, rfl, hp⟩ := List.find?_eq_some_iff_append.mp hf
        have hp' : ∀ x ∈ pre, isCoreReset x = false := fun x hm => by simpa using hp x hm
        rw [State.serveNext_of_reset hc hr hp' hq] at h
        exact .inr ⟨r, pre, q, post, rfl, hr, hp', hq, (Option.some.inj h).symm⟩

/-- A request that decodes waits exactly when its instruction does. -/
theorem State.ready_of_decode {s : State} {r : Request} {i : Instr} (h : decode r = .ok i) : s.ready r = !s.mustWait i := by
  have hop : decodeOpcode r.code = some (opcodeOf i) := by
    unfold decode at h
    split at h
    · cases h
    · next op hop =>
      rw [hop]
      split at h
      · cases h
      · next j hj =>
        split at h <;> cases h
        unfold decodeOperands at hj
        cases op <;> dsimp only at hj <;> (try split at hj) <;> cases hj <;> rfl
  simp [State.ready, hop, State.mustWait]

/-! The window. -/

/-- Everything that fitting `rx_win` to a new `sps` does (20_memory.md R61, log 5): the size, the elements still there, nothing else. -/
theorem DemRegs.fit_spec (d : DemRegs) (sps : Nat) :
    (d.fit sps).rxWin.length = sps ∧ d.fit sps = { d with rxWin := (d.fit sps).rxWin, draws := (d.fit sps).draws } ∧
    (∀ i, i < sps → i < d.rxWin.length → (d.fit sps).rxWin[i]? = d.rxWin[i]?) ∧ (d.rxWin.length = sps → d.fit sps = d) := by
  unfold DemRegs.fit
  split
  · next h => exact ⟨by simp [h], rfl, fun i hi _ => by simp [hi], fun e => by simp [← e]⟩
  · next h =>
    refine ⟨by simp [unspecifiedWindow]; omega, rfl, fun i _ hi => by simp [List.getElem?_append, hi], fun e => by omega⟩

/-! The read port. -/

/-- A number that fits is read as itself (40_config.md R140). -/
theorem word32OfNat_toNat {n : Nat} (h : n < 2 ^ 32) : (word32OfNat n).toNat = n := by
  simp only [word32OfNat, h, if_true, BitVec.toNat_ofNat]
  omega

/-! The configuration checks. -/

/-- No base check fails exactly when all six conditions hold (40_config.md R131). -/
theorem baseFailure_eq_none_iff (c : ModConfig) :
    baseFailure c = none ↔
      (isInteger c.sampleRate = true ∧ 0 < c.sampleRate) ∧
      ((0 < c.freq0 ∧ c.freq0 < c.sampleRate / 2) ∧ (0 < c.freq1 ∧ c.freq1 < c.sampleRate / 2)) ∧
      c.freq0 ≠ c.freq1 ∧ 0 < c.symbolDuration ∧
      (0 ≤ c.rampDuration ∧ c.rampDuration ≤ c.symbolDuration / 2) ∧ (0 < c.amplitude ∧ c.amplitude ≤ 1) := by
  unfold baseFailure
  constructor
  · intro h
    repeat' (split at h <;> try cases h)
    simp only [not_not] at *
    exact ⟨by assumption, by assumption, by assumption, by assumption, by assumption, by assumption⟩
  · rintro ⟨h1, h2, h3, h4, h5, h6⟩
    rw [if_neg (not_not.mpr h1), if_neg (not_not.mpr h2), if_neg h3, if_neg (not_not.mpr h4), if_neg (not_not.mpr h5),
      if_neg (not_not.mpr h6)]

/-- No derived check fails exactly when both conditions hold (40_config.md R131). -/
theorem derivedFailure_eq_none_iff (sps rampN : Nat) : derivedFailure sps rampN = none ↔ 1 ≤ sps ∧ 2 * rampN ≤ sps := by
  unfold derivedFailure
  split
  · simp; omega
  · split <;> simp <;> omega

/-- No demodulator check fails exactly when all three conditions hold (40_config.md R132). -/
theorem demodFailure_eq_none_iff (nMax : Option Nat) (fftN bin0 bin1 : Nat) :
    demodFailure nMax fftN bin0 bin1 = none ↔
      (∀ m, nMax = some m → fftN ≤ m) ∧ (2 * bin0 ≤ fftN ∧ 2 * bin1 ≤ fftN) ∧ (bin0 + 6 < bin1 ∨ bin1 + 6 < bin0) := by
  unfold demodFailure
  cases nMax with
  | none => simp only [Option.any_none]; repeat' split
            all_goals simp_all
            all_goals omega
  | some m => simp only [Option.any_some, decide_eq_true_eq]; repeat' split
              all_goals simp_all
              all_goals omega

/-- A load that passes every check sets everything (40_config.md R130). -/
theorem CfgRegs.load_of_checks (r : CfgRegs) (nMax : Option Nat) (c : ModConfig) (hb : baseFailure c = none)
    (hd : derivedFailure (r.writeConf c).deriveSymbol.sps (r.writeConf c).deriveSymbol.rampN = none)
    (hm : demodFailure nMax (r.writeConf c).deriveSymbol.deriveTransform.fftN
      (r.writeConf c).deriveSymbol.deriveTransform.bin0 (r.writeConf c).deriveSymbol.deriveTransform.bin1 = none) :
    r.load nMax c = ({ (r.writeConf c).deriveSymbol.deriveTransform with demValid := true }, none) := by
  simp only [CfgRegs.load, hb, hd, hm]

/-- Whatever a load does, the operands stand in the configuration registers after it (40_config.md R130; 60_exceptions.md R312). -/
theorem CfgRegs.load_conf (r : CfgRegs) (nMax : Option Nat) (c : ModConfig) : (r.load nMax c).1.conf = c := by
  unfold CfgRegs.load
  dsimp only
  repeat' (first | rfl | split)

/-- `dem_valid` is set exactly when no check fails (40_config.md R130). -/
theorem CfgRegs.load_demValid (r : CfgRegs) (nMax : Option Nat) (c : ModConfig) :
    (r.load nMax c).1.demValid = (r.load nMax c).2.isNone := by
  unfold CfgRegs.load
  dsimp only
  repeat' (first | rfl | split)

end Sys2Proof.Machine
end

