-- ==== Sys2Proof/Laws/Frame.lean ====
section
/-!
SUPPORT. What the work of one side of the core can write (10_state.md R21): the steps of DEM and FDEC, the steps of MOD, the operations of
each side, and everything in progress together.
-/
namespace Sys2Proof.Machine

/-- From `s` to `t` only registers and ports of the receive side, and `rsp_out`, have changed. -/
def ReceiveOnly (s t : State) : Prop :=
  t = { s with
    pcmIn := t.pcmIn, dem := t.dem, fdec := t.fdec, msgOut := t.msgOut, dbgOut := t.dbgOut, rxBytes := t.rxBytes, rspOut := t.rspOut }

/-- From `s` to `t` only registers and ports of the transmit side, and `rsp_out`, have changed. -/
def TransmitOnly (s t : State) : Prop := t = { s with mod := t.mod, pcmOut := t.pcmOut, rspOut := t.rspOut }

theorem ReceiveOnly.refl (s : State) : ReceiveOnly s s := rfl

theorem ReceiveOnly.trans {s t u : State} (h : ReceiveOnly s t) (h' : ReceiveOnly t u) : ReceiveOnly s u := by
  unfold ReceiveOnly at *
  rw [h', h]

/-- Answering a DEM operation that has nothing left to do. -/
theorem State.demComplete_receiveOnly (s : State) : ReceiveOnly s s.demComplete := by
  unfold State.demComplete ReceiveOnly; split <;> simp [State.respond]

/-- One step of a DEM.PUSH, DEM.DECODE or DET.CLASSIFY. -/
theorem State.demConsume_receiveOnly (s : State) : ReceiveOnly s s.demConsume := by
  unfold State.demConsume; split
  · exact ReceiveOnly.trans (t := _) (by rfl) (State.demComplete_receiveOnly _)
  · exact ReceiveOnly.trans (t := _) (by rfl) (State.demComplete_receiveOnly _)
  · simp [ReceiveOnly, State.respond]
  · rfl

/-- Several of them. -/
theorem State.demConsumeAll_receiveOnly (n : Nat) (s : State) : ReceiveOnly s (s.demConsumeAll n) := by
  induction n generalizing s with
  | zero => rfl
  | succ n ih => exact (State.demConsume_receiveOnly s).trans (ih _)

/-- FDEC taking what stands on `rx_bytes`. -/
theorem State.drainRxBytes_receiveOnly (s : State) : ReceiveOnly s s.drainRxBytes.2 := by
  simp [State.drainRxBytes, State.postEvents_eq, ReceiveOnly]

/-- The body of RX.RECV for one sample. -/
theorem State.recvSample_receiveOnly (s : State) (x : Sample) : ReceiveOnly s (s.recvSample x).2 :=
  ReceiveOnly.trans (t := _) (by rfl) (State.drainRxBytes_receiveOnly _)

/-- One sample of an RX.RECV in progress. -/
theorem State.recvConsume_receiveOnly (s : State) : ReceiveOnly s s.recvConsume := by
  unfold State.recvConsume; split
  · refine ReceiveOnly.trans ?_ (State.demComplete_receiveOnly _)
    rename_i left sent x rest h1 h2
    have h0 : ReceiveOnly s { s with pcmIn := rest } := rfl
    have h3 := h0.trans (State.recvSample_receiveOnly { s with pcmIn := rest } x)
    generalize ({ s with pcmIn := rest }.recvSample x) = r at *
    refine h3.trans ?_
    rfl
  · rfl

/-- Several of them. -/
theorem State.recvConsumeAll_receiveOnly (n : Nat) (s : State) : ReceiveOnly s (s.recvConsumeAll n) := by
  induction n generalizing s with
  | zero => rfl
  | succ n ih => exact (State.recvConsume_receiveOnly s).trans (ih _)

/-- Answering an FDEC.FEED that has nothing left to do. -/
theorem State.feedComplete_receiveOnly (s : State) : ReceiveOnly s s.feedComplete := by
  unfold State.feedComplete ReceiveOnly; split <;> simp [State.respond]

/-- One byte of an FDEC.FEED in progress. -/
theorem State.feedConsume_receiveOnly (s : State) : ReceiveOnly s s.feedConsume := by
  unfold State.feedConsume; split
  · refine ReceiveOnly.trans (t := _) ?_ (State.feedComplete_receiveOnly _)
    simp [ReceiveOnly, State.postEvents_eq]
  · rfl

/-- Several of them. -/
theorem State.feedConsumeAll_receiveOnly (n : Nat) (s : State) : ReceiveOnly s (s.feedConsumeAll n) := by
  induction n generalizing s with
  | zero => rfl
  | succ n ih => exact (State.feedConsume_receiveOnly s).trans (ih _)

/-- DEM going on as far as it can. -/
theorem State.demFinish_receiveOnly (s : State) : ReceiveOnly s s.demFinish := by
  unfold State.demFinish
  split <;> first | exact State.demConsumeAll_receiveOnly _ _ | exact State.recvConsumeAll_receiveOnly _ _ | rfl

/-- A turn of DEM. -/
theorem State.demStep_receiveOnly (s : State) : ReceiveOnly s s.demStep := by
  unfold State.demStep
  split <;> first | exact State.demConsume_receiveOnly _ | exact State.recvConsume_receiveOnly _ | rfl

/-- FDEC going on to its end. -/
theorem State.feedFinish_receiveOnly (s : State) : ReceiveOnly s s.feedFinish := by
  unfold State.feedFinish; split <;> first | exact State.feedConsumeAll_receiveOnly _ _ | rfl

/-- MOD having made some steps. -/
theorem State.modAdvance_transmitOnly (s : State) (r : List PcmItem × ModRegs) : TransmitOnly s (s.modAdvance r) := by
  simp [TransmitOnly, State.modAdvance_eq]

/-- Everything in progress going on: what no unit writes. -/
theorem State.finishAll_frame (s : State) :
    s.finishAll.params = s.params ∧ s.finishAll.cfg = s.cfg ∧ s.finishAll.cmdIn = s.cmdIn ∧ s.finishAll.seqCtr = s.seqCtr ∧
      s.finishAll.timeIn = s.timeIn ∧ s.finishAll.draws = s.draws ∧ s.finishAll.sched = s.sched := by
  have h1 := State.modAdvance_transmitOnly s (s.mod.run s.params s.cfg (s.mod.workLeft s.cfg))
  have h2 := State.demFinish_receiveOnly s.modFinish
  have h3 := State.feedFinish_receiveOnly s.modFinish.demFinish
  unfold State.finishAll
  rw [h3]; simp only; rw [h2]; simp only
  change s.modFinish = _ at h1
  rw [h1]; simp

/-- Accepting a DEM operation. -/
theorem State.startDem_receiveOnly (s : State) (o : DemOp) (n : Nat) : ReceiveOnly s (s.startDem o n) := by
  unfold State.startDem; split
  · exact ReceiveOnly.trans (t := _) (by rfl)
      ((State.demComplete_receiveOnly _).trans (State.demConsumeAll_receiveOnly _ _))
  · exact ReceiveOnly.trans (t := _) (by rfl) (State.demComplete_receiveOnly _)

/-- Accepting an RX.RECV. -/
theorem State.startRecv_receiveOnly (s : State) (n : Nat) : ReceiveOnly s (s.startRecv n) := by
  unfold State.startRecv; split
  · exact ReceiveOnly.trans (t := _) (by rfl)
      ((State.demComplete_receiveOnly _).trans (State.recvConsumeAll_receiveOnly _ _))
  · exact ReceiveOnly.trans (t := _) (by rfl) (State.demComplete_receiveOnly _)

/-- Accepting an FDEC.FEED. -/
theorem State.startFeed_receiveOnly (s : State) (chunk : List Byte) : ReceiveOnly s (s.startFeed chunk) := by
  unfold State.startFeed; split
  · exact ReceiveOnly.trans (t := _) (by rfl)
      ((State.feedComplete_receiveOnly _).trans (State.feedConsumeAll_receiveOnly _ _))
  · exact ReceiveOnly.trans (t := _) (by rfl) (State.feedComplete_receiveOnly _)

/-- Accepting a MOD.ENCODE or TX.SEND. -/
theorem State.startEncode_transmitOnly (s : State) (bytes : List Byte) : TransmitOnly s (s.startEncode bytes) := by
  unfold State.startEncode; split
  · simp [TransmitOnly, State.respond]
  · dsimp only; split
    · simp [TransmitOnly, State.modFinish, State.modAdvance_eq]
    · rfl

/-- Refusing a request to MOD. -/
theorem State.refuseMod_transmitOnly (s : State) (st : Status) : TransmitOnly s (s.refuseMod st) := by
  unfold State.refuseMod; split <;> simp [TransmitOnly, State.refuse, State.respond]

end Sys2Proof.Machine
end

