-- ==== Sys2Proof/Laws/PerInstr.lean ====
section
/-!
SUPPORT. A statement for every operation, one lemma per constructor: the code its encoding begins with is the one that names it, and its
operands are read back as they were (30_encoding.md R119, R120).
-/
namespace Sys2Proof.Laws.OperandsReadBack

/-- The code of the encoding names the operation, and the operands of the encoding are read back as the instruction. -/
def Statement (i : Instr) : Prop :=
  decodeOpcode (encode i).code = some (opcodeOf i) ∧ decodeOperands (opcodeOf i) (encode i).operands = some i

theorem coreReset : Statement .coreReset := ⟨rfl, rfl⟩
theorem cfgLoad (c : ModConfig) : Statement (.cfgLoad c) := ⟨rfl, rfl⟩
theorem csrRead (n : Byte) : Statement (.csrRead n) := ⟨rfl, rfl⟩
theorem crcCalc (b : List Byte) : Statement (.crcCalc b) := ⟨rfl, rfl⟩
theorem msgChecksum (h : Header) (b : List Byte) : Statement (.msgChecksum h b) := ⟨rfl, rfl⟩
theorem msgVerify (m : Message) : Statement (.msgVerify m) := ⟨rfl, rfl⟩
theorem msgNewText (x : Bool) (n : Word32) (b : List Byte) : Statement (.msgNewText x n b) := ⟨rfl, rfl⟩
theorem msgNewFile (x : Bool) (n : Word32) (b : List Byte) : Statement (.msgNewFile x n b) := ⟨rfl, rfl⟩
theorem msgNewAck (x : Bool) (n : Word32) (b : List Byte) : Statement (.msgNewAck x n b) := ⟨rfl, rfl⟩
theorem msgNewPing (x : Bool) (n : Word32) (b : List Byte) : Statement (.msgNewPing x n b) := ⟨rfl, rfl⟩
theorem fencSer (m : Message) : Statement (.fencSer m) := ⟨rfl, rfl⟩
theorem fencWrap (b : List Byte) : Statement (.fencWrap b) := ⟨rfl, rfl⟩
theorem fencEncode (m : Message) : Statement (.fencEncode m) := ⟨rfl, rfl⟩
theorem modEncode (b : List Byte) : Statement (.modEncode b) := ⟨rfl, rfl⟩
theorem txSend (m : Message) : Statement (.txSend m) := ⟨rfl, rfl⟩
theorem demInit : Statement .demInit := ⟨rfl, rfl⟩
theorem detClassify (w : List Sample) : Statement (.detClassify w) := ⟨rfl, rfl⟩
theorem demDecode (w : List Sample) : Statement (.demDecode w) := ⟨rfl, rfl⟩
theorem demPush (w : List Sample) : Statement (.demPush w) := ⟨rfl, rfl⟩
theorem fdecInit : Statement .fdecInit := ⟨rfl, rfl⟩
theorem fdecFeed (b : List Byte) : Statement (.fdecFeed b) := ⟨rfl, rfl⟩
theorem fdecDeser (b : List Byte) : Statement (.fdecDeser b) := ⟨rfl, rfl⟩
theorem rxRecv (n : Nat) : Statement (.rxRecv n) := ⟨rfl, rfl⟩

end Sys2Proof.Laws.OperandsReadBack
end

