-- ==== Sys2Proof/Laws/Text.lean ====
section
/-!
SUPPORT. What the shared operations on Message texts and checksums can do.
-/
namespace Sys2Proof.Machine

/-- Working a number out first changes nothing. -/
@[simp] theorem withWord_eq {α : Type} (w : Word32) (f : Word32 → α) : withWord w f = f w := by
  unfold withWord
  split
  · next h => rw [show w = 0#32 from BitVec.eq_of_toNat_eq (by simpa using h)]
  · next n h => rw [show n + 1 = w.toNat from h.symm, BitVec.ofNat_toNat, BitVec.setWidth_eq]

/-- The CRC register after a byte string: the bytes enter one after the other (43_frame_encoder.md R201). -/
theorem crcUpdate_eq_foldl (c : Word32) (bytes : List Byte) : crcUpdate c bytes = bytes.foldl crcByte c := by
  induction bytes generalizing c with
  | nil => rfl
  | cons b rest ih => simp [crcUpdate, ih]

/-- The CRC register over a concatenation (43_frame_encoder.md R202). -/
theorem crcUpdate_append (c : Word32) (a b : List Byte) : crcUpdate c (a ++ b) = crcUpdate (crcUpdate c a) b := by
  simp [crcUpdate_eq_foldl, List.foldl_append]

/-- A text is accepted with a Message exactly when it reads as that Message and the checksum verifies (44_frame_decoder.md R254). -/
theorem deserVerify_eq_ok_iff (f : TextFormat) (bytes : List Byte) (m : Message) :
    deserVerify f bytes = .ok m ↔ deserText f bytes = some m ∧ verifyMessage f m = true := by
  unfold deserVerify
  split
  · next h => simp [h]
  · next x h =>
    rw [h]
    split
    · next hv => constructor
                 · intro e; cases e; exact ⟨rfl, hv⟩
                 · rintro ⟨e, _⟩; cases e; rfl
    · next hv => constructor
                 · intro e; cases e
                 · rintro ⟨e, h2⟩; cases e; exact absurd h2 hv

/-- The size of a frame (30_encoding.md R90). -/
@[simp] theorem wrapFrame_length (p : List Byte) : (wrapFrame p).length = 14 + p.length := by
  simp [wrapFrame, bytesOfLength, Config.preambleLen]
  omega

end Sys2Proof.Machine
end

