-- ==== Sys2Proof/Tests/Slice0.lean ====
section
/-!
SUPPORT. Tests. Expected results are the spec's: its tables, worked examples and vectors, or hand calculation from its rules where the
comment says so. Then, for every obligation with hypotheses, a witness: a concrete state and operands that meet them.
-/
namespace Sys2Proof.Tests
open Sys2Proof.Machine

-- One theorem after the other: run side by side, the kernel evaluations below ask for more memory than they need.
set_option Elab.async false

/-! Helpers. -/

def bytes (l : List Nat) : List Byte := l.map (BitVec.ofNat 8)

/-- The state an outcome leads to. -/
def after (o : Host.Outcome State Fault Refusal) : State := match o with | .next s => s | _ => State.reset

/-- The last answer on `rsp_out` of an outcome. -/
def answer (o : Host.Outcome State Fault Refusal) : Option Response := (after o).rspOut.getLast?

/-- The default ModConfig (00_scope.md R7). -/
def defaults : ModConfig := ModConfig.defaults

/-- A small ModConfig: 16 samples a symbol, transform size 16, bins 1 and 8, ramps of 2 samples. -/
def small : ModConfig :=
  { sampleRate := 1600, freq0 := 100, freq1 := 790, symbolDuration := 1 / 100, rampDuration := 1 / 800, amplitude := 1 / 2 }

/-- The configuration unit after loading it. -/
def smallCfg : CfgRegs :=
  { conf := small, sps := 16, rampN := 2, fftN := 16, bin0 := 1, bin1 := 8, fftPlan := 16, cfgValid := true, demValid := true }

/-- An idle demodulator with a window of 16 samples. -/
def idleDem : DemRegs := { DemRegs.reset with rxWin := List.replicate 16 0#32 }

/-- An idle configured core that emits the reference samples. -/
def ready : State :=
  { State.reset with
    params := { Params.defaults with sampling := .reference, debugEvents := true }, cfg := smallCfg, dem := idleDem }

/-- The Message of vector V8. -/
def hello : Message :=
  { header := { version := 1#8, kind := .text, sequenceNumber := 0#32, timestamp := 0#64, payloadLength := 2#16 }
    payload := [0x48#8, 0x69#8], checksum := 1503859035#32 }

/-- Its text (30_encoding.md R107), byte for byte. -/
def helloText : List Byte :=
    bytes [0x7B, 0x22, 0x68, 0x65, 0x61, 0x64, 0x65, 0x72, 0x22, 0x3A, 0x7B, 0x22, 0x76, 0x65, 0x72, 0x73, 0x69, 0x6F, 0x6E, 0x22, 0x3A, 0x31, 0x2C, 0x22] ++
    bytes [0x6D, 0x65, 0x73, 0x73, 0x61, 0x67, 0x65, 0x5F, 0x74, 0x79, 0x70, 0x65, 0x22, 0x3A, 0x22, 0x54, 0x65, 0x78, 0x74, 0x22, 0x2C, 0x22, 0x73, 0x65] ++
    bytes [0x71, 0x75, 0x65, 0x6E, 0x63, 0x65, 0x5F, 0x6E, 0x75, 0x6D, 0x62, 0x65, 0x72, 0x22, 0x3A, 0x30, 0x2C, 0x22, 0x74, 0x69, 0x6D, 0x65, 0x73, 0x74] ++
    bytes [0x61, 0x6D, 0x70, 0x22, 0x3A, 0x30, 0x2C, 0x22, 0x70, 0x61, 0x79, 0x6C, 0x6F, 0x61, 0x64, 0x5F, 0x6C, 0x65, 0x6E, 0x67, 0x74, 0x68, 0x22, 0x3A] ++
    bytes [0x32, 0x7D, 0x2C, 0x22, 0x70, 0x61, 0x79, 0x6C, 0x6F, 0x61, 0x64, 0x22, 0x3A, 0x5B, 0x37, 0x32, 0x2C, 0x31, 0x30, 0x35, 0x5D, 0x2C, 0x22, 0x63] ++
    bytes [0x68, 0x65, 0x63, 0x6B, 0x73, 0x75, 0x6D, 0x22, 0x3A, 0x31, 0x35, 0x30, 0x33, 0x38, 0x35, 0x39, 0x30, 0x33, 0x35, 0x7D]

/-- Its frame (vector V8). -/
def helloFrame : List Byte :=
  bytes [0xAA, 0xAA, 0xAA, 0xAA, 0xAA, 0xAA, 0xAA, 0xAA, 0x7E, 0x7E, 0x00, 0x8C] ++ helloText ++ bytes [0x7E, 0x7E]

/-- A window of 16 samples of the tone of bin 8: 1, -1, 1, -1, … -/
def markWindow : List Sample := (List.replicate 8 [0x3F800000#32, 0xBF800000#32]).flatten

/-- A window of 16 samples near bin 0, inside the range searched around bin 1: all 1. -/
def spaceWindow : List Sample := List.replicate 16 0x3F800000#32

/-! Well-formedness: a Message operand of more than 65535 bytes is refused (30_encoding.md R120). -/

def bigMessage : Message := { hello with payload := List.replicate 65536 0x00#8 }
def fullMessage : Message := { hello with payload := List.replicate 65535 0x00#8 }

theorem test_bigMessage_is_illformed : bigMessage.wellFormed = false := by
  have h : bigMessage.payload.length = 65536 := List.length_replicate
  simp only [Message.wellFormed, h]
  decide
theorem test_illformed_msgVerify : (Instr.msgVerify bigMessage).wellFormed = false := test_bigMessage_is_illformed
theorem test_illformed_fencSer : (Instr.fencSer bigMessage).wellFormed = false := test_bigMessage_is_illformed
theorem test_illformed_fencEncode : (Instr.fencEncode bigMessage).wellFormed = false := test_bigMessage_is_illformed
theorem test_illformed_txSend : (Instr.txSend bigMessage).wellFormed = false := test_bigMessage_is_illformed
theorem test_wellformed_at_the_bound : (Instr.txSend fullMessage).wellFormed = true := by
  have h : fullMessage.payload.length = 65535 := List.length_replicate
  simp only [Instr.wellFormed, Message.wellFormed, h]
  decide

/-! Decoding: every code, written out from the patterns of 30_encoding.md R119. -/

theorem test_decode_coreReset : decodeTableWord 8 0b00000000 = some (.coreReset) := rfl
theorem test_decode_cfgLoad : decodeTableWord 8 0b00000001 =
    some (.cfgLoad { sampleRate := 0, freq0 := 0, freq1 := 0, symbolDuration := 0, rampDuration := 0, amplitude := 0 }) := rfl
theorem test_decode_csrRead : decodeTableWord 8 0b00000010 = some (.csrRead 0#8) := rfl
theorem test_decode_crcCalc : decodeTableWord 8 0b00010000 = some (.crcCalc []) := rfl
theorem test_decode_msgChecksum : decodeTableWord 8 0b00010001 = some (.msgChecksum zeroHeader []) := rfl
theorem test_decode_msgVerify : decodeTableWord 8 0b00010010 = some (.msgVerify zeroMessage) := rfl
theorem test_decode_msgNewText : decodeTableWord 8 0b00010011 = some (.msgNewText false 0#32 []) := rfl
theorem test_decode_msgNewFile : decodeTableWord 8 0b00010100 = some (.msgNewFile false 0#32 []) := rfl
theorem test_decode_msgNewAck : decodeTableWord 8 0b00010101 = some (.msgNewAck false 0#32 []) := rfl
theorem test_decode_msgNewPing : decodeTableWord 8 0b00010110 = some (.msgNewPing false 0#32 []) := rfl
theorem test_decode_fencSer : decodeTableWord 8 0b00100000 = some (.fencSer zeroMessage) := rfl
theorem test_decode_fencWrap : decodeTableWord 8 0b00100001 = some (.fencWrap []) := rfl
theorem test_decode_fencEncode : decodeTableWord 8 0b00100010 = some (.fencEncode zeroMessage) := rfl
theorem test_decode_modEncode : decodeTableWord 8 0b00110000 = some (.modEncode []) := rfl
theorem test_decode_txSend : decodeTableWord 8 0b00110001 = some (.txSend zeroMessage) := rfl
theorem test_decode_demInit : decodeTableWord 8 0b01000000 = some (.demInit) := rfl
theorem test_decode_detClassify : decodeTableWord 8 0b01000001 = some (.detClassify []) := rfl
theorem test_decode_demDecode : decodeTableWord 8 0b01000010 = some (.demDecode []) := rfl
theorem test_decode_demPush : decodeTableWord 8 0b01000011 = some (.demPush []) := rfl
theorem test_decode_fdecInit : decodeTableWord 8 0b01010000 = some (.fdecInit) := rfl
theorem test_decode_fdecFeed : decodeTableWord 8 0b01010001 = some (.fdecFeed []) := rfl
theorem test_decode_fdecDeser : decodeTableWord 8 0b01010010 = some (.fdecDeser []) := rfl
theorem test_decode_rxRecv : decodeTableWord 8 0b01100000 = some (.rxRecv 0) := rfl
theorem test_decode_unused_code : decodeTableWord 8 0b00000011 = none := rfl
theorem test_decode_operand_of_another_form : decode { code := 0x21#8, operands := [.register 0#8] } = .error (.badOperand .fencWrap) := rfl
theorem test_decode_operand_missing : decode { code := 0x13#8, operands := [.seqSel true, .bytes []] } = .error (.badOperand .msgNewText) := rfl

/-- 60_exceptions.md R311: CORE.RESET is never refused. -/
theorem test_decode_coreReset_with_operands : decode { code := 0x00#8, operands := [.register 1#8] } = .ok .coreReset := rfl
theorem test_fetch_runs_the_code : answer (step (State.reset.withFetchWord 8 0x10)) = some { status := .ok, value := .word 0#32 } := by
  decide +kernel

/-! System operations. -/

theorem test_round_tie_goes_up : roundHalfUp (5 / 2) = 3 ∧ roundHalfUp (33 / 2) = 17 ∧ roundHalfUp (882 / 10) = 88 := by decide +kernel

/-- 40_config.md R130, vector V1. -/
theorem test_cfgLoad_defaults :
    let r := (after (exec (.cfgLoad defaults) State.reset)).cfg
    r.sps = 441 ∧ r.rampN = 88 ∧ r.fftN = 512 ∧ r.bin0 = 209 ∧ r.bin1 = 232 ∧ r.cfgValid = true ∧ r.demValid = true := by
  decide +kernel

/-- 40_config.md R131: the example of check 8. -/
theorem test_cfgLoad_ramp_too_long :
    answer (exec (.cfgLoad ⟨100, 10, 40, 34 / 1000, 15 / 1000, 3 / 10⟩) State.reset) =
      some { status := .configError .rampTooLong, value := .none } := by
  decide +kernel

/-- 40_config.md R141 (b): STATUS after loading the defaults. -/
theorem test_csrRead_status :
    answer (exec (.csrRead 0x10#8) (after (exec (.cfgLoad defaults) State.reset))) = some { status := .ok, value := .word 3#32 } := by
  decide +kernel

/-- 10_state.md R30: an undefined number reads 0. -/
theorem test_csrRead_undefined : answer (exec (.csrRead 0x17#8) ready) = some { status := .ok, value := .word 0#32 } := by
  decide +kernel

/-- 70_reset_and_hazards.md R332: a MOD.ENCODE cut short leaves no `last` marker and no status. -/
theorem test_coreReset_abandons_an_encode :
    let s := after (step (after (step { ready with
      sched := [.serve, .mod], cmdIn := [{ code := 0x30#8, operands := [.bytes [0xA5#8]] }] })))
    let t := after (exec .coreReset s)
    s.mod.active = true ∧ s.pcmOut.length = 1 ∧ t.mod.active = false ∧ t.pcmOut.length = 1 ∧ t.rspOut.length = 1 := by
  decide +kernel

/-! CRC and Messages. -/

/-- 43_frame_encoder.md R203: the check value. -/
theorem test_crcCalc_check_value :
    answer (exec (.crcCalc (bytes [0x31, 0x32, 0x33, 0x34, 0x35, 0x36, 0x37, 0x38, 0x39])) State.reset) =
      some { status := .ok, value := .word 0xCBF43926#32 } := by
  decide +kernel

theorem test_crcCalc_a : answer (exec (.crcCalc [0x61#8]) State.reset) = some { status := .ok, value := .word 0xE8B7BE43#32 } := by
  decide +kernel

/-- 43_frame_encoder.md R205. -/
theorem test_msgChecksum : answer (exec (.msgChecksum hello.header hello.payload) State.reset) =
    some { status := .ok, value := .word 0x59A3115B#32 } := by
  decide +kernel

/-- Vector V6: the version is inside the checksum (43_frame_encoder.md R206). -/
theorem test_msgVerify_other_version :
    answer (exec (.msgVerify { hello with header := { hello.header with version := 2#8 } }) State.reset) =
      some { status := .ok, value := .bit false } ∧
    answer (exec (.msgVerify { hello with header := { hello.header with version := 2#8 }, checksum := 2242414760#32 }) State.reset) =
      some { status := .ok, value := .bit true } := by
  decide +kernel

/-- 43_frame_encoder.md R210. -/
theorem test_msgNewText :
    answer (exec (.msgNewText false 0#32 [0x48#8, 0x69#8]) State.reset) = some { status := .ok, value := .message hello } := by
  decide +kernel

/-- 43_frame_encoder.md R211: the checksum of the File example. -/
theorem test_msgNewFile :
    answer (exec (.msgNewFile false 5#32 [0x00#8, 0xFF#8]) State.reset) = some ⟨.ok, .message
      ⟨⟨1#8, .file, 5#32, 0#64, 2#16⟩, [0x00#8, 0xFF#8], 0xC0661C7B#32⟩⟩ := by
  decide +kernel

/-- Vector V9: the largest sequence number and time; the automatic number wraps (43_frame_encoder.md R209). -/
theorem test_msgNewAck_wraps :
    let t := after (exec (.msgNewAck true 7#32 []) { State.reset with seqCtr := 0xFFFFFFFF#32, timeIn := 0xFFFFFFFFFFFFFFFF#64 })
    t.seqCtr = 0#32 ∧ t.rspOut = [⟨.ok, .message
      ⟨⟨1#8, .ack, 4294967295#32, 18446744073709551615#64, 0#16⟩, [], 324518474#32⟩⟩] := by
  decide +kernel

/-- 43_frame_encoder.md R213. -/
theorem test_msgNewPing :
    answer (exec (.msgNewPing false 0#32 []) State.reset) = some ⟨.ok, .message
      ⟨⟨1#8, .ping, 0#32, 0#64, 0#16⟩, [], 853136125#32⟩⟩ := by
  decide +kernel

/-! The frame encoder. -/

/-- 30_encoding.md R107: the worked example. -/
theorem test_fencSer : answer (exec (.fencSer hello) State.reset) = some { status := .ok, value := .bytes helloText } := by
  decide +kernel

/-- 43_frame_encoder.md R216: the empty payload. -/
theorem test_fencWrap_empty : answer (exec (.fencWrap []) State.reset) = some ⟨.ok, .bytes
    (bytes [0xAA, 0xAA, 0xAA, 0xAA, 0xAA, 0xAA, 0xAA, 0xAA, 0x7E, 0x7E, 0x00, 0x00, 0x7E, 0x7E])⟩ := by
  decide +kernel

/-- 43_frame_encoder.md R217, vector V26 (b). -/
theorem test_fencWrap_too_large : answer (exec (.fencWrap (List.replicate 1025 0#8)) State.reset) =
    some { status := .payloadTooLarge 1025#32, value := .none } := by
  decide +kernel

/-- Vector V8. -/
theorem test_fencEncode : answer (exec (.fencEncode hello) State.reset) = some { status := .ok, value := .bytes helloFrame } := by
  decide +kernel

/-! The modulator. -/

set_option maxRecDepth 100000 in
/-- Vectors V11 and V12: binary32 patterns of a ramped sample and an unramped one, default configuration. -/
theorem test_modEncode_samples :
    let r := (after (exec (.cfgLoad defaults) State.reset)).cfg
    let p := { Params.defaults with sampling := .reference }
    sampleOut p r true 1 true false = 0x3A80A98A#32 ∧ sampleOut p r false 1 false false = 0x3E27969C#32 := by
  decide +kernel

/-- 41_modulator.md R150, R153, R155, with 2 samples a symbol: 16 items for one byte, `last` on the final one only, zero there. -/
theorem test_modEncode_one_byte :
    let t := after (exec (.modEncode [0xA5#8]) { ready with cfg := { smallCfg with sps := 2, rampN := 1 } })
    t.pcmOut.length = 16 ∧ t.pcmOut.getLast? = some { sample := 0#32, last := true } ∧
    (t.pcmOut.filter (fun x => x.last)).length = 1 ∧ t.mod.active = false ∧ t.rspOut = [{ status := .ok, value := .none }] := by
  decide +kernel

/-- 45_composition.md R280: the first byte of the frame is taken, the other 153 wait on `tx_bytes`. -/
theorem test_txSend_starts :
    let t := after (exec (.txSend hello) { ready with sched := [.mod] })
    t.mod.active = true ∧ t.mod.byte = 0xAA#8 ∧ t.mod.tx.length = 153 ∧ t.mod.tx.getLast? = some (0x7E#8, true) ∧ t.rspOut = [] := by
  decide +kernel

/-- 20_memory.md R62, 60_exceptions.md R309: a second call while one runs is `Busy`, and its answer follows the first call's `Ok`. -/
theorem test_txSend_busy :
    let s := { ready with
      sched := [.serve, .serve] ++ List.replicate 16 .mod
      cfg := { smallCfg with sps := 2, rampN := 1 }
      cmdIn := [encode (.modEncode [0xA5#8]), encode (.txSend hello)] }
    let t := (List.range 17).foldl (fun u _ => after (step u)) s
    t.rspOut = [] ∧ t.mod.active = true ∧ t.pcmOut.length = 15 ∧
    (after (step t)).rspOut = [{ status := .ok, value := .none }, { status := .busy, value := .none }] := by
  decide +kernel

/-! The detector and the demodulator. -/

/-- 42_demodulator.md R177, R180: by hand, the alternating window has all its power in bin 8, the constant one in bin 0. -/
theorem test_detClassify :
    answer (exec (.detClassify markWindow) ready) = some { status := .ok, value := .bit true } ∧
    answer (exec (.detClassify spaceWindow) ready) = some { status := .ok, value := .bit false } := by
  decide +kernel

/-- 40_config.md R134: a CFG.LOAD while a DET.CLASSIFY is in progress. -/
theorem test_cfgLoad_during_classify :
    let s := { ready with
      sched := [.serve, .serve, .dem], cmdIn := [encode (.detClassify markWindow), encode (.cfgLoad defaults)] }
    let t := after (step (after (step (after (step s)))))
    t.cfg = smallCfg ∧ t.rspOut = [{ status := .busy, value := .none }, { status := .ok, value := .bit true }] := by
  decide +kernel

/-- 60_exceptions.md R306: a window of another length. -/
theorem test_detClassify_length :
    answer (exec (.detClassify (0#32 :: markWindow)) ready) = some { status := .badOperand, value := .none } := by
  decide +kernel

theorem test_demInit :
    let t := after (exec .demInit { ready with dem := { idleDem with rxFill := 3, rxShift := 1#8, rxBitcnt := 1 } })
    t.dem.rxWin.length = 16 ∧ t.dem.rxFill = 0 ∧ t.dem.rxShift = 0#8 ∧ t.dem.rxBitcnt = 0 ∧ t.rspOut = [{ status := .ok, value := .none }] := by
  decide +kernel

/-- 42_demodulator.md R185, R186: the bits 1 0 1 0 0 1 0 1 make the byte A5, most significant first. -/
theorem test_demDecode :
    answer (exec (.demDecode (markWindow ++ spaceWindow ++ markWindow ++ spaceWindow ++ spaceWindow ++ markWindow ++ spaceWindow
      ++ markWindow ++ [0#32])) ready) = some { status := .ok, value := .bytes [0xA5#8] } := by
  decide +kernel

/-- 42_demodulator.md R187: a partial window and a partial byte are kept. -/
theorem test_demPush_keeps :
    let t := after (exec (.demPush (markWindow ++ spaceWindow ++ markWindow ++ [0#32, 0#32])) ready)
    t.dem.rxFill = 2 ∧ t.dem.rxBitcnt = 3 ∧ t.dem.rxShift = 0b101#8 ∧ t.rspOut = [{ status := .ok, value := .bytes [] }] := by
  decide +kernel

/-! The frame decoder. -/

theorem test_fdecInit :
    (after (exec .fdecInit { ready with fdec := { FdecRegs.reset with tag := .rm, len := 3, pay := [1#8] } })).fdec = FdecRegs.reset := by
  decide +kernel

/-- 44_frame_decoder.md R262 (a), vector V19. -/
theorem test_fdecFeed_frame :
    let t := after (exec (.fdecFeed helloFrame) ready)
    t.fdec = FdecRegs.reset ∧ t.rspOut = [{ status := .ok, value := .messages [hello] }] ∧ t.dbgOut = [.preambleFound, .frameOk] := by
  decide +kernel

/-- 44_frame_decoder.md R262 (d): length 1025. -/
theorem test_fdecFeed_length_1025 :
    let t := after (exec (.fdecFeed (List.replicate 8 0xAA#8 ++ bytes [0x7E, 0x7E, 0x04, 0x01])) ready)
    t.fdec = { FdecRegs.reset with buf := bytes [0x04, 0x01] } ∧ t.dbgOut = [.preambleFound, .frameCorrupt .length] := by
  decide +kernel

/-- 44_frame_decoder.md R254, vector V22: the text, and the text without its first byte. -/
theorem test_fdecDeser :
    answer (exec (.fdecDeser helloText) ready) = some { status := .ok, value := .message hello } ∧
    answer (exec (.fdecDeser helloText.tail) ready) = some { status := .frameCorrupt .deser, value := .none } := by
  decide +kernel

/-- Vector V22 (n): a byte after the text. -/
theorem test_fdecDeser_trailing :
    answer (exec (.fdecDeser (helloText ++ [0x78#8])) ready) = some { status := .frameCorrupt .deser, value := .none } := by
  decide +kernel

/-! The receive pipeline. -/

/-- 45_composition.md R283: one window taken from `pcm_in`, the rest left there. -/
theorem test_rxRecv :
    let t := after (exec (.rxRecv 16) { ready with pcmIn := markWindow ++ [0#32] })
    t.pcmIn = [0#32] ∧ t.dem.rxBitcnt = 1 ∧ t.dem.rxShift = 1#8 ∧ t.rspOut = [{ status := .ok, value := .count 0 }] := by
  decide +kernel

/-! Witnesses: the hypotheses of the obligations, met together. -/

/-- An instruction as the request that asks for it, waiting on `cmd_in` of a core. -/
def withRequest (s : State) (r : Request) : State := { s with cmdIn := [r] }

theorem test_witness_DecodeInvertsEncode :
    (Instr.fencSer hello).wellFormed = true ∧ decode { code := 0x20#8, operands := [.message hello] } = .ok (.fencSer hello) ∧
    Instr.fencSer hello ≠ .coreReset := by
  exact ⟨by decide, rfl, by decide⟩

/-- The codes next to the ends of the groups, and the largest. -/
theorem test_witness_IllegalCodeIsAnswered :
    ∀ code ∈ [0x03#8, 0x0F#8, 0x17#8, 0x23#8, 0x32#8, 0x44#8, 0x53#8, 0x61#8, 0xFF#8],
      (withRequest State.reset ⟨code, []⟩).sched = [] ∧ (withRequest State.reset ⟨code, []⟩).cmdIn = ⟨code, []⟩ :: [] ∧
      code ∉ [0x00#8, 0x01#8, 0x02#8, 0x10#8, 0x11#8, 0x12#8, 0x13#8, 0x14#8, 0x15#8, 0x16#8, 0x20#8, 0x21#8, 0x22#8,
        0x30#8, 0x31#8, 0x40#8, 0x41#8, 0x42#8, 0x43#8, 0x50#8, 0x51#8, 0x52#8, 0x60#8] := by
  decide

/-- Both clauses: no turn scheduled, and a turn that serves. -/
theorem test_witness_StepRunsDecodedRequest :
    decode ⟨0x10#8, [.bytes [1#8]]⟩ = .ok (.crcCalc [1#8]) ∧
    (withRequest State.reset ⟨0x10#8, [.bytes [1#8]]⟩).mustWait (.crcCalc [1#8]) = false ∧
    (withRequest State.reset ⟨0x10#8, [.bytes [1#8]]⟩).sched = [] ∧
    (withRequest { State.reset with sched := [.serve] } ⟨0x10#8, [.bytes [1#8]]⟩).sched = .serve :: [] := by
  exact ⟨rfl, rfl, rfl, rfl⟩

/-- A core in which a DEM.PUSH waits for its turn while two requests stand on `cmd_in`, the first for DEM. -/
def waiting : State :=
  { ready with
    dem := { idleDem with op := some (.push [0#32] []) }
    cmdIn := [encode .demInit, encode (.crcCalc [])] }

theorem test_witness_WaitingRequestsKeepTheirOrder :
    waiting.sched = [] ∧ waiting.cmdIn = encode .demInit :: [encode (.crcCalc [])] ∧ waiting.ready (encode .demInit) = false ∧
    (∃ t, step waiting = .next t) ∧ ({ waiting with dem := idleDem } : State).ready (encode .demInit) = true ∧
    ({ ready with fdec := { FdecRegs.reset with op := some ⟨[0#8], []⟩ } } : State).ready (encode (.rxRecv 1)) = false := by
  exact ⟨rfl, rfl, rfl, ⟨_, rfl⟩, rfl, rfl⟩

/-- 70_reset_and_hazards.md R340: the DEM.INIT that waits is performed before the CRC.CALC behind it. -/
theorem test_requests_keep_their_order :
    let t := after (step waiting)
    t.cmdIn = waiting.cmdIn ∧ t.rspOut = [{ status := .ok, value := .bytes [] }] ∧
    (after (step t)).rspOut = [{ status := .ok, value := .bytes [] }, { status := .ok, value := .none }] := by
  decide +kernel

/-- A core whose RX.RECV is short of samples, with a DEM.INIT and a CSR.READ waiting before a CORE.RESET. -/
def stuck : State :=
  { waiting with
    dem := { idleDem with op := some (.recv 1 0) }
    cmdIn := [encode .demInit, encode (.csrRead 0x10#8), encode .coreReset, encode .fdecInit] }

/-- 70_reset_and_hazards.md R331, R332: the CORE.RESET is accepted, and the requests not yet taken are taken after it. -/
theorem test_coreReset_passes_waiting_requests :
    let t := after (step stuck)
    t.dem.op = none ∧ t.cfg.demValid = false ∧ t.rspOut = [{ status := .ok, value := .none }] ∧
    t.cmdIn = [encode .demInit, encode (.csrRead 0x10#8), encode .fdecInit] ∧
    (after (step t)).rspOut = [{ status := .ok, value := .none }, { status := .notConfigured, value := .none }] := by
  decide +kernel

theorem test_witness_WaitingRequestsKeepTheirOrder_reset :
    let pre := [encode (.csrRead 0x10#8)]
    let post := [encode .fdecInit]
    stuck.cmdIn = encode .demInit :: (pre ++ encode .coreReset :: post) ∧ stuck.ready (encode .demInit) = false ∧
    (∀ x ∈ pre, x.code ≠ 0x00#8) ∧ (encode .coreReset).code = 0x00#8 ∧ stuck.sched = [] ∧
    ({ stuck with sched := [.serve] } : State).ready (encode .demInit) = false ∧
    ({ stuck with sched := [.mod] } : State).ready (encode .demInit) = false ∧ Turn.mod ≠ .serve ∧
    (∃ t, step { stuck with sched := [.mod] } = .next t) ∧ (∀ q ∈ [encode (.crcCalc [])], q.code ≠ 0x00#8) := by
  exact ⟨rfl, rfl, by decide, rfl, rfl, rfl, rfl, by decide, ⟨_, rfl⟩, by decide⟩

theorem test_witness_BusyUnitRequestWaits : waiting.mustWait .demInit = true ∧ waiting.mustWait (.rxRecv 1) = true := by
  decide

theorem test_witness_IdleCoreDoesNothing : Quiet ready ∧ ready.sched = [] ∧ ready.cmdIn = [] := by
  exact ⟨⟨rfl, rfl, rfl⟩, rfl, rfl⟩

theorem test_witness_OutsideTurnsTouchOnePort :
    ({ ready with sched := [.request (encode .demInit)] } : State).sched = .request (encode .demInit) :: [] ∧
    ({ ready with sched := [.sample 1#32] } : State).sched = .sample 1#32 :: [] ∧
    ({ ready with sched := [.time 9#64] } : State).sched = .time 9#64 :: [] := by
  exact ⟨rfl, rfl, rfl⟩

/-- The configuration unit of the tests is sound. -/
theorem test_smallCfg_is_sound : CfgInv Params.defaults smallCfg := by
  refine ⟨fun _ => ⟨⟨by decide +kernel, by decide +kernel, by decide +kernel, by decide +kernel, by decide +kernel,
    by decide +kernel, by decide +kernel⟩, by decide +kernel, by decide +kernel, by decide, by decide, by decide +kernel,
    by decide +kernel, by decide +kernel, by decide⟩, fun _ => ⟨rfl, ⟨(by intro m h; cases h), by decide, by decide⟩⟩⟩

/-- A sound, configured, idle core with a request waiting. -/
def sound : State := { ready with params := Params.defaults, cmdIn := [encode .coreReset] }

/-- A decoder outside `WP` is sound if its lengths are right. -/
theorem test_fdec_sound (p : Params) (r : FdecRegs) (h1 : r.tag = .wp → r.buf.length < 8)
    (h2 : r.tag ≠ .wp → r.tag ≠ .rm → r.buf.length ≤ 1) (h3 : r.tag = .rm → r.buf = [])
    (h4 : r.tag = .wp ∨ r.tag = .ws ∨ r.tag = .rl → r.len = 0 ∧ r.pay = [])
    (h5 : r.tag = .rm → 1 ≤ r.len ∧ r.len ≤ Config.maxLen ∧ r.pay.length < r.len)
    (h6 : r.tag = .we → 1 ≤ r.len ∧ r.len ≤ Config.maxLen ∧ r.pay.length = r.len) (h7 : r.buf.length ≤ p.cap) : FdecInv p r where
  noPreamble h hp := by
    have := hp.length_le
    have := h1 h
    simp only [List.length_replicate, Config.preambleLen] at *
    omega
  shortBuf h := by
    refine h2 ?_ ?_ <;> intro hx <;> simp [hx] at h
  emptyBuf := h3
  cleared := h4
  reading := h5
  waitingEnd := h6
  capped := h7

theorem test_reset_decoder_sound (p : Params) : FdecInv p FdecRegs.reset := by
  apply test_fdec_sound <;> simp [FdecRegs.reset]

/-- An idle modulator and an idle demodulator are sound. -/
theorem test_reset_modulator_sound (c : CfgRegs) : ModInv c ModRegs.reset := by
  constructor <;> intro h <;> simp_all [ModRegs.reset]
theorem test_idle_demodulator_sound : DemInv smallCfg idleDem := by
  constructor <;> simp [idleDem, DemRegs.reset, smallCfg, demOpPending]

/-- The hypotheses of StepKeepsInvariant. -/
theorem test_witness_StepKeepsInvariant : Inv sound ∧ ∃ t, step sound = .next t :=
  ⟨⟨⟨by decide, by decide +kernel⟩, test_smallCfg_is_sound, test_reset_modulator_sound _, test_idle_demodulator_sound,
    test_reset_decoder_sound _, trivial, rfl⟩, _, rfl⟩

theorem test_witness_OnlyLoadAndResetWriteConfig :
    (∃ t, step sound = .next t ∧ t.cfg ≠ sound.cfg) ∧ (∃ t, step stuck = .next t ∧ t.cfg ≠ stuck.cfg) ∧ (∃ t, step ready = .next t) ∧ (∃ t, exec .fdecInit ready = .next t) ∧ (∀ c, Instr.fdecInit ≠ .cfgLoad c) ∧
    Instr.fdecInit ≠ .coreReset := by
  exact ⟨⟨_, rfl, by decide +kernel⟩, ⟨_, rfl, by decide +kernel⟩, ⟨_, rfl⟩, ⟨_, rfl⟩, (by intro c h; cases h), by decide⟩

/-- One operation of each side, the turns, and two cores with one transmit side in which nothing is served. -/
theorem test_witness_PipelinesShareNoState :
    (∃ t, exec (.modEncode []) ready = .next t) ∧ (∃ t, exec (.fencSer hello) ready = .next t) ∧ (∃ t, exec .demInit ready = .next t) ∧
    (∃ t, exec (.fdecFeed [0xAA#8]) ready = .next t) ∧
    (∃ t, step { ready with sched := [.mod] } = .next t) ∧ (∃ t, step { ready with sched := [.dem] } = .next t) ∧
    (∃ t, step { ready with sched := [.fdec] } = .next t) ∧
    (∃ t, step ready = .next t) ∧ (∃ t, step waiting = .next t) ∧ ready.params = waiting.params ∧ ready.cfg = waiting.cfg ∧
    ready.cmdIn = [] ∧ waiting.cmdIn = encode .demInit :: [encode (.crcCalc [])] ∧ waiting.ready (encode .demInit) = false ∧
    (∀ q ∈ [encode (.crcCalc [])], q.code ≠ 0x00#8) ∧ ready.mod = waiting.mod ∧ ready.pcmOut = waiting.pcmOut := by
  exact ⟨⟨_, rfl⟩, ⟨_, rfl⟩, ⟨_, rfl⟩, ⟨_, rfl⟩, ⟨_, rfl⟩, ⟨_, rfl⟩, ⟨_, rfl⟩, ⟨_, rfl⟩, ⟨_, rfl⟩, rfl, rfl, rfl, rfl, rfl, by decide,
    rfl, rfl⟩

theorem test_witness_CfgLoadCompletes :
    small = receiveConfig ready.params.numFormat small ∧ ready.mod.active = false ∧ ready.dem.op = none ∧
    conditionsHoldUpTo ready.params.nMax small 11 := by
  refine ⟨rfl, rfl, rfl, ?_⟩
  intro j h1 h2
  interval_cases j <;> simp only [conditionHolds] <;> decide +kernel

/-- For every check but number 10, which cannot be the first to fail (BinsStayBelowNyquist), operands of which it is the first that
fails: those of 40_config.md R131, R132 and vector V3, and check 9 with `N_MAX` 256. -/
def failing : Nat → Option Nat × ModConfig
  | 1 => (none, ⟨0, 18000, 20000, 1 / 100, 1 / 500, 3 / 10⟩)
  | 2 => (none, ⟨44100, 22050, 20000, 1 / 100, 1 / 500, 3 / 10⟩)
  | 3 => (none, ⟨44100, 18000, 18000, 1 / 100, 1 / 500, 3 / 10⟩)
  | 4 => (none, ⟨44100, 18000, 20000, 0, 0, 3 / 10⟩)
  | 5 => (none, ⟨44100, 18000, 20000, 1 / 100, 6 / 1000, 3 / 10⟩)
  | 6 => (none, ⟨44100, 18000, 20000, 1 / 100, 1 / 500, 0⟩)
  | 7 => (none, ⟨44100, 18000, 20000, 1 / 100000, 0, 3 / 10⟩)
  | 8 => (none, ⟨44100, 18000, 20000, 1 / 100, 1 / 200, 1⟩)
  | 9 => (some 256, defaults)
  | _ => (none, ⟨44100, 18000, 18500, 1 / 100, 1 / 500, 3 / 10⟩)

theorem test_witness_CfgLoadReportsFirstFailedCheck :
    ready.mod.active = false ∧ ready.dem.op = none ∧ ready.params.numFormat = .rational ∧
    ready.dem.rxWin.length = smallCfg.sps ∧ (∀ c, c = receiveConfig .rational c) ∧
    ∀ k ∈ [1, 2, 3, 4, 5, 6, 7, 8, 9, 11], conditionsHoldUpTo (failing k).1 (failing k).2 (k - 1) ∧
      ¬ conditionHolds (failing k).1 (failing k).2 k := by
  refine ⟨rfl, rfl, rfl, by decide, fun _ => rfl, ?_⟩
  intro k hk
  simp only [List.mem_cons, List.not_mem_nil, or_false] at hk
  rcases hk with rfl | rfl | rfl | rfl | rfl | rfl | rfl | rfl | rfl | rfl
  all_goals refine ⟨fun j h1 h2 => ?_, ?_⟩
  all_goals first
    | (simp only [conditionHolds]; decide +kernel)
    | (interval_cases j <;> simp only [conditionHolds] <;> decide +kernel)

theorem test_witness_CfgLoadRefusedWhileBusy :
    ({ ModRegs.reset with active := true } : ModRegs).active = true ∧ waiting.dem.op ≠ none := by
  decide

/-- A tie, and the two ends of the interval that rounds to 3. -/
theorem test_witness_RoundIsNearestTieUp :
    (0 : Rat) ≤ 5 / 2 ∧ roundHalfUp (5 / 2) = 3 ∧ roundHalfUp (3499 / 1000) = 3 ∧ roundHalfUp (7 / 2) = 4 := by
  decide +kernel

theorem test_witness_FftSizeIsLeastPowerOfTwo : 1 ≤ 1 ∧ pow2AtLeast 1 = 1 ∧ pow2AtLeast 256 = 256 ∧ pow2AtLeast 257 = 512 := by
  decide +kernel

theorem test_witness_BinsStayBelowNyquist : conditionsHoldUpTo none small 8 :=
  fun j h1 h2 => test_witness_CfgLoadCompletes.2.2.2 j h1 (by omega)

/-- Both values of the flag, numbers outside the table next to those in it, and the largest number the port carries. -/
theorem test_witness_CsrReadCompletes :
    ready.cfg.cfgValid = true ∧ State.reset.cfg.cfgValid = false ∧
    (∀ n ∈ [0x06#8, 0x07#8, 0x0D#8, 0x0F#8, 0x17#8, 0xFF#8], n ∉ [0x00#8, 0x01#8, 0x02#8, 0x03#8, 0x04#8, 0x05#8, 0x08#8, 0x09#8,
      0x0A#8, 0x0B#8, 0x0C#8, 0x10#8, 0x11#8, 0x12#8, 0x13#8, 0x14#8, 0x15#8, 0x16#8]) ∧ 2 ^ 32 - 1 < 2 ^ 32 := by
  decide

theorem test_witness_StatusWordLayout : 7 < 8 ∧ statusWord true true true .we 7 = 0b111100111#32 := by decide

/-- Two strings that differ in the first and in the last of 32 neighbouring places. -/
theorem test_witness_CrcDetectsShortBursts :
    let a := bytes [0x80, 0, 0, 0, 0x00]
    let b := bytes [0x00, 0, 0, 0, 0x40]
    a.length = b.length ∧ a ≠ b ∧
    ∀ j, (a.getD (j / 8) 0#8).getLsbD (j % 8) ≠ (b.getD (j / 8) 0#8).getLsbD (j % 8) → 7 ≤ j ∧ j < 7 + 32 := by
  intro a b
  refine ⟨rfl, by decide, fun j h => ?_⟩
  by_cases hj : j < 40
  · have key : ∀ j < 40, (a.getD (j / 8) 0#8).getLsbD (j % 8) ≠ (b.getD (j / 8) 0#8).getLsbD (j % 8) → 7 ≤ j ∧ j < 7 + 32 := by
      decide
    exact key j hj h
  · rw [List.getD_eq_default _ _ (by simp [a, bytes]; omega), List.getD_eq_default _ _ (by simp [b, bytes]; omega)] at h
    exact absurd rfl h

/-- The longest payload, and one byte more. -/
theorem test_witness_MsgNewCompletes :
    (List.replicate 65535 0#8).length ≤ 65535 ∧ (List.replicate 65536 0#8).length > 65535 := by
  simp only [List.length_replicate]; decide

/-- A Message whose text is 1027 bytes long (vector V10). -/
def longMessage : Message := buildMessage .compactJson .text 0#32 0#64 (List.replicate 446 0x09#8)

set_option maxRecDepth 100000 in
theorem test_longMessage_size : (serMessage longMessage).length = 1027 := by decide +kernel

theorem test_helloText_size : (serMessage hello).length = 140 := by decide +kernel

theorem test_witness_FrameEncoderCompletes :
    (List.replicate 1024 0#8).length ≤ 1024 ∧ (serMessage hello).length ≤ 1024 := by
  rw [test_helloText_size, List.length_replicate]; decide

theorem test_witness_TooLargePayloadIsRefused :
    1024 < (List.replicate 1025 0#8).length ∧ 1024 < (serMessage longMessage).length ∧ ready.cfg.cfgValid = true ∧
    ready.mod.active = false := by
  rw [test_longMessage_size, List.length_replicate]; decide

theorem test_witness_FrameLayout :
    (List.replicate 1024 0#8).length ≤ 1024 ∧ ([] : List Byte).length ≤ 1024 ∧ 7 < 8 ∧ 1023 < (List.replicate 1024 0#8).length := by
  simp only [List.length_replicate, List.length_nil]; decide

theorem test_witness_MessageTextSize : hello.header.version = 1#8 := rfl

theorem test_witness_SerialisersAreInjective :
    serMessage hello = serMessage hello ∧ serHeader hello.header = serHeader hello.header := ⟨rfl, rfl⟩

theorem test_witness_ModEncodeMatchesFormula :
    ready.cfg.cfgValid = true ∧ 1 ≤ ready.cfg.sps ∧ ModInv ready.cfg ready.mod ∧ ready.mod.active = false ∧ ready.sched = [] ∧
    [0xA5#8] ≠ [] :=
  ⟨rfl, by decide, test_reset_modulator_sound _, rfl, rfl, by decide⟩

theorem test_witness_ModEncodeOfNothing : ready.cfg.cfgValid = true ∧ ready.mod.active = false := ⟨rfl, rfl⟩

theorem test_witness_TransmitRefusals :
    State.reset.cfg.cfgValid = false ∧ State.reset.mod.active = false ∧ ready.cfg.cfgValid = true ∧
    ({ ready with mod := { ModRegs.reset with active := true } } : State).mod.active = true ∧
    ({ State.reset with mod := { ModRegs.reset with active := true } } : State).cfg.cfgValid = false := ⟨rfl, rfl, rfl, rfl, rfl⟩

/-- A modulator that sends a byte: at a sample within a symbol, at the end of one, at the end of a byte, at the end of the call. -/
def sending (bitIdx sampIdx : Nat) (isLast : Bool) : State :=
  { ready with
    sched := [.mod]
    mod := { ModRegs.reset with active := true, held := true, bitIdx := bitIdx, sampIdx := sampIdx, isLast := isLast } }

theorem test_witness_ModTurnEmitsOneSample :
    ∀ x ∈ [(0, 14, false), (6, 15, false), (7, 15, false), (7, 15, true)],
      let s := sending x.1 x.2.1 x.2.2
      s.sched = .mod :: [] ∧ s.mod.active = true ∧ s.mod.held = true ∧ s.mod.bitIdx < 8 ∧ s.mod.sampIdx < s.cfg.sps := by
  decide

theorem test_witness_SamplesStayWithinAmplitude : 0 < smallCfg.conf.amplitude := by decide +kernel

theorem test_witness_RampEndsAreExactZeros : true = true ∧ 0 < smallCfg.rampN ∧ 15 + 1 = smallCfg.sps := by decide

theorem test_witness_SamplesFollowTheFormula :
    Params.defaults.sampling = .within (1 / 1048576) ∧ ready.params.sampling = .reference ∧ 0 < smallCfg.conf.amplitude ∧
    smallCfg.conf.amplitude ≤ 1 ∧ 0 < smallCfg.conf.sampleRate ∧ 15 < smallCfg.sps := by
  decide +kernel

theorem test_witness_TxSendCompletes :
    ready.cfg.cfgValid = true ∧ 1 ≤ ready.cfg.sps ∧ ModInv ready.cfg ready.mod ∧ ready.mod.active = false ∧ ready.sched = [] ∧
    (serMessage hello).length ≤ 1024 :=
  ⟨rfl, by decide, test_reset_modulator_sound _, rfl, rfl, by rw [test_helloText_size]; decide⟩

theorem test_witness_DetClassifyCompletes :
    ready.cfg.demValid = true ∧ markWindow.length = ready.cfg.sps ∧ ready.dem.op = none ∧ ready.sched = [] ∧
    ({ ready with sched := [.dem] } : State).sched ≠ [] ∧
    (let s := { ready with sched := [.dem], dem := { idleDem with op := some (.classify markWindow) } }
     s.sched = .dem :: [] ∧ s.dem.op = some (.classify markWindow)) := by
  decide +kernel

theorem test_witness_DetectorComparesRealPeaks :
    Params.defaults.epsRx = 0 ∧ smallCfg.fftN = 2 ^ (2 + 2) ∧ 2 * smallCfg.bin0 ≤ smallCfg.fftN ∧ 2 * smallCfg.bin1 ≤ smallCfg.fftN ∧
    markWindow.length ≤ smallCfg.fftN ∧ ∀ x ∈ markWindow, f32Finite x = true := by
  refine ⟨rfl, rfl, by decide, by decide, by decide +kernel, fun x hx => ?_⟩
  have h : x = 0x3F800000#32 ∨ x = 0xBF800000#32 := by
    simp [markWindow] at hx
    tauto
  rcases h with rfl | rfl <;> decide

theorem test_witness_SilenceIsZero : Params.defaults.epsRx = 0 := rfl

/-- A NaN, and an infinity. -/
theorem test_witness_NonNumbersGiveADraw :
    (∃ x ∈ [0x7FC00000#32], x.extractLsb' 23 8 = 0xFF#8) ∧ ∃ x ∈ [0#32, 0xFF800000#32], x.extractLsb' 23 8 = 0xFF#8 :=
  ⟨⟨0x7FC00000#32, by simp, by decide⟩, ⟨0xFF800000#32, by simp, by decide⟩⟩

/-- A demodulator one sample before the end of a window, one bit before the end of a byte. -/
def lastSample : DemRegs := { idleDem with rxFill := 15, rxBitcnt := 7 }

theorem test_witness_PerSampleStep :
    idleDem.rxWin.length = smallCfg.sps ∧ idleDem.rxFill + 1 < smallCfg.sps ∧
    lastSample.rxWin.length = smallCfg.sps ∧ lastSample.rxFill + 1 = smallCfg.sps ∧ lastSample.rxBitcnt + 1 = 8 ∧
    ({ lastSample with rxBitcnt := 6 } : DemRegs).rxBitcnt + 1 ≠ 8 ∧
    (∀ op ∈ [DemOp.push [0#32, 1#32] [], .push [0#32] [5#8], .decode [0#32, 1#32] [], .decode [0#32] [5#8]],
      let s := { ready with sched := [.dem], dem := { idleDem with op := some op } }
      s.sched = .dem :: [] ∧ s.dem.op = some op) ∧ [1#32] ≠ ([] : List Sample) := by
  decide

/-- A free DEM, with and without turns scheduled, and a DEM.PUSH and a DEM.DECODE in progress with no turn left. -/
theorem test_witness_DemodulatorCompletes :
    ready.cfg.demValid = true ∧ ready.dem.op = none ∧ ready.sched = [] ∧ ({ ready with sched := [.dem] } : State).sched ≠ [] ∧
    [0#32] ≠ ([] : List Sample) ∧ ready.cmdIn = [] ∧ ready.mod.active = false ∧ ready.fdec.op = none ∧
    (∀ op ∈ [DemOp.push [0#32] [], .decode [0#32] []],
      ({ ready with dem := { idleDem with op := some op } } : State).dem.op = some op) := by
  decide

theorem test_witness_ReceiveRefusals :
    State.reset.dem.op = none ∧ State.reset.fdec.op = none ∧ State.reset.cfg.demValid = false ∧ State.reset.cfg.cfgValid = false ∧
    ready.dem.op = none ∧ ready.fdec.op = none ∧ ready.cfg.cfgValid = true ∧ (markWindow.drop 1).length ≠ ready.cfg.sps ∧
    ({ smallCfg with demValid := false } : CfgRegs).demValid = false ∧ markWindow.length = smallCfg.sps :=
  ⟨rfl, rfl, rfl, rfl, rfl, rfl, rfl, by decide +kernel, rfl, by decide +kernel⟩

theorem test_witness_DecodeClosedForm :
    Params.defaults.epsRx = 0 ∧ 1 ≤ smallCfg.sps ∧ (∀ x ∈ List.replicate 128 0#32, f32Finite x = true) ∧
    0 < (List.replicate 128 0#32).length / smallCfg.sps / 8 := by
  refine ⟨rfl, by decide, ?_, by decide +kernel⟩
  intro x hx
  rw [List.eq_of_mem_replicate hx]
  decide

/-- Sound decoders in the five states, at both ends of each clause of FeedByteTransitions: with nothing or one byte held, before the last
payload byte, at the largest length, and in `WP` with a full buffer. -/
def decoders : List FdecRegs :=
  [⟨.wp, bytes [0xAA, 0xAA, 0xAA, 0xAA, 0xAA, 0xAA, 0xAA], 0, [], none⟩, ⟨.ws, [], 0, [], none⟩, ⟨.ws, [0x7E#8], 0, [], none⟩,
   ⟨.rl, [], 0, [], none⟩, ⟨.rl, [0x04#8], 0, [], none⟩, ⟨.rm, [], 1, [], none⟩, ⟨.rm, [], 1024, [], none⟩,
   ⟨.we, [], 1, [0x7B#8], none⟩, ⟨.we, [0x7E#8], 1, [0x7B#8], none⟩]

theorem test_witness_FeedByteTransitions :
    16 ≤ Params.defaults.cap ∧ (∀ r ∈ decoders, FdecInv Params.defaults r) ∧
    FdecInv { Params.defaults with cap := 16 } ⟨.wp, List.replicate 16 0x55#8, 0, [], none⟩ := by
  refine ⟨by decide, ?_, ?_⟩
  · intro r hr
    simp only [decoders, List.mem_cons, List.not_mem_nil, or_false] at hr
    rcases hr with rfl | rfl | rfl | rfl | rfl | rfl | rfl | rfl | rfl <;> apply test_fdec_sound <;>
      simp [bytes, Params.defaults, Config.maxLen]
  · constructor <;> try simp
    unfold HasPreamble
    decide

theorem test_witness_EmittedMessagesVerify : hello ∈ (feedBytes Params.defaults FdecRegs.reset helloFrame).2.1 := by
  decide +kernel

/-- A text that reads as a Message and verifies, one that reads and does not verify, one that does not read (vector V22 (a), (f), (u)). -/
theorem test_witness_FrameDecoderCompletes :
    ready.fdec.op = none ∧ ready.dem.op = none ∧ ready.sched = [] ∧
    ready.params.textFormat = .compactJson ∧
    deserText .compactJson helloText = some hello ∧
    hello.checksum = crc32 (serHdrText .compactJson hello.header ++ hello.payload) ∧
    deserText .compactJson (helloText.set 111 0x33#8) = some { hello with payload := [0x49#8, 0x69#8] } ∧
    hello.checksum ≠ crc32 (serHdrText .compactJson hello.header ++ [0x49#8, 0x69#8]) ∧
    deserText .compactJson helloText.tail = none ∧
    ready.cmdIn = [] ∧ ready.mod.active = false ∧ ({ ready with sched := [.fdec] } : State).sched ≠ [] ∧ [1#8] ≠ ([] : List Byte) ∧
    (∀ rest ∈ [[], [1#8]],
      let s := { ready with sched := [.fdec], fdec := { FdecRegs.reset with op := some ⟨0xAA#8 :: rest, [hello]⟩ } }
      s.fdec.op = some ⟨0xAA#8 :: rest, [hello]⟩ ∧ s.sched = .fdec :: []) := by
  decide +kernel

theorem test_witness_ChunkingDoesNotMatter : ready.fdec.op = none ∧ ready.dem.op = none ∧ ready.sched = [] := ⟨rfl, rfl, rfl⟩

theorem test_witness_CapDoesNotMatter :
    16 ≤ ({ Params.defaults with cap := 16 } : Params).cap ∧ 16 ≤ Params.defaults.cap ∧
    ({ Params.defaults with cap := 16 } : Params).textFormat = Params.defaults.textFormat := by decide

theorem test_witness_PreambleRunDecodes :
    16 ≤ Params.defaults.cap ∧ deserText .compactJson (serText .compactJson hello) = some hello ∧
    verifyMessage .compactJson hello = true ∧ 1 ≤ (serText .compactJson hello).length ∧ (serText .compactJson hello).length ≤ 1024 :=
  ⟨by decide, by decide +kernel, by decide +kernel, by decide +kernel, by decide +kernel⟩

theorem test_witness_EncodedFrameIsDecoded :
    16 ≤ ready.params.cap ∧ ready.fdec = FdecRegs.reset ∧ ready.dem.op = none ∧ ready.sched = [] ∧
    deserText .compactJson (serText .compactJson hello) = some hello ∧ verifyMessage .compactJson hello = true ∧
    1 ≤ (serText .compactJson hello).length ∧ (serText .compactJson hello).length ≤ 1024 :=
  ⟨by decide, rfl, rfl, rfl, by decide +kernel, by decide +kernel, by decide +kernel, by decide +kernel⟩

theorem test_witness_RxRecvIsPushThenFeed :
    ready.dem.op = none ∧ ready.fdec.op = none ∧ ready.cfg.demValid = true ∧ ready.sched = [] ∧ ready.rxBytes = [] ∧
    3 ≤ ({ ready with pcmIn := [0#32, 0#32, 0#32] } : State).pcmIn.length := by
  decide

/-- An RX.RECV that takes 3 more samples, with as many samples there as said. -/
def receiving (n : Nat) : State :=
  { ready with pcmIn := List.replicate n 0#32, dem := { idleDem with op := some (.recv 3 0) } }

theorem test_witness_RxRecvWaitsForSamples :
    ready.rxBytes = [] ∧ ready.fdec.op = none ∧ ready.dem.op = none ∧ ready.cfg.demValid = true ∧ ready.sched = [] ∧
    ready.pcmIn.length < 1 ∧
    (receiving 0).rxBytes = [] ∧ (receiving 0).fdec.op = none ∧ (receiving 0).dem.op = some (.recv 3 0) ∧ 0 < 3 ∧
    (receiving 0).sched = [] ∧ (receiving 0).cmdIn = [] ∧ (receiving 0).mod.active = false ∧
    (receiving 0).pcmIn.length < 3 ∧ (receiving 2).pcmIn.length < 3 ∧ 3 ≤ (receiving 3).pcmIn.length ∧
    ({ receiving 1 with sched := [.dem] } : State).dem.op = some (.recv (2 + 1) 0) ∧
    ({ receiving 1 with sched := [.dem] } : State).sched = .dem :: [] ∧ (receiving 1).pcmIn = 0#32 :: [] ∧
    ({ ready with sched := [.dem], dem := { idleDem with op := some (.recv (0 + 1) 0) } } : State).sched = .dem :: [] := by
  decide

end Sys2Proof.Tests
end

-- ==== Proofs: 30_encoding.md, illegal codes and the frame ====
section
/-!
SUPPORT. Proofs of the statements on 30_encoding.md: a code that names no operation (R116), and the frame field by field (R90).
-/
namespace Sys2Proof.Machine

/-! A code that names no operation: it waits for no unit, and serving it is one `IllegalOp`. -/

/-- A request with a code that names no operation has no unit to wait for. -/
theorem State.ready_of_decodeOpcode_eq_none {r : Request} (h : decodeOpcode r.code = none) (s : State) : s.ready r = true := by
  simp [State.ready, h]

/-- The operands of an illegal code are not looked at (60_exceptions.md R311). -/
theorem decode_of_decodeOpcode_eq_none {r : Request} (h : decodeOpcode r.code = none) : decode r = .error (.illegalOp r.code) := by
  simp [decode, h]

theorem State.serve_of_decodeOpcode_eq_none {r : Request} (h : decodeOpcode r.code = none) (s : State) :
    s.serve r = .next (s.respond (.illegalOp r.code) .none) := by
  simp [State.serve, decode_of_decodeOpcode_eq_none h, State.refuseDecode, decodeErrorStatus]

/-- With no turn scheduled, a step takes the request at the front when it need not wait. -/
theorem step_of_ready {s : State} {r : Request} {rest : List Request} (hs : s.sched = []) (hc : s.cmdIn = r :: rest)
    (h : s.ready r = true) : step s = { s with cmdIn := rest }.serve r := by
  simp [step, hs, State.serveNext_of_ready hc h]

/-- The cause of `IllegalOp` is the code, zero-extended (60_exceptions.md R300). -/
theorem Status.cause_illegalOp_toNat (code : Byte) : (Status.illegalOp code).cause.toNat = code.toNat :=
  BitVec.toNat_setWidth_of_le (by decide)

/-! The frame: the preamble, then what stands behind it, each part found by its offset. -/

/-- The frame, its parts nested from the left end (30_encoding.md R90). -/
theorem wrapFrame_eq_append (p : List Byte) :
    wrapFrame p = List.replicate 8 0xAA#8 ++ (0x7E#8 :: 0x7E#8 :: (bytesOfLength p.length ++ (p ++ [0x7E#8, 0x7E#8]))) := by
  simp [wrapFrame, Config.preambleLen, Config.preambleByte, Config.delimByte]

theorem wrapFrame_getD_preamble (p : List Byte) {k : Nat} (h : k < 8) : (wrapFrame p).getD k 0#8 = 0xAA#8 := by
  rw [wrapFrame_eq_append, List.getD_append _ _ _ _ (by simpa using h), List.getD_replicate _ h]

/-- Behind the preamble: the start delimiter, the length, the payload and the end delimiter. -/
theorem wrapFrame_getD_add_eight (p : List Byte) (k : Nat) :
    (wrapFrame p).getD (8 + k) 0#8 = (0x7E#8 :: 0x7E#8 :: (bytesOfLength p.length ++ (p ++ [0x7E#8, 0x7E#8]))).getD k 0#8 := by
  rw [wrapFrame_eq_append, List.getD_append_right _ _ _ _ (by simp)]
  simp

/-- Behind the length field: the payload and the end delimiter. -/
theorem wrapFrame_getD_add_twelve (p : List Byte) (k : Nat) :
    (wrapFrame p).getD (12 + k) 0#8 = (p ++ [0x7E#8, 0x7E#8]).getD k 0#8 := by
  rw [show 12 + k = 8 + (k + 4) by omega, wrapFrame_getD_add_eight]
  rfl

theorem wrapFrame_getD_payload (p : List Byte) {k : Nat} (h : k < p.length) :
    (wrapFrame p).getD (12 + k) 0#8 = p.getD k 0#8 := by
  rw [wrapFrame_getD_add_twelve, List.getD_append _ _ _ _ h]

theorem wrapFrame_getD_endDelim (p : List Byte) {j : Nat} (h : j < 2) :
    (wrapFrame p).getD (12 + (p.length + j)) 0#8 = 0x7E#8 := by
  rw [wrapFrame_getD_add_twelve, List.getD_append_right _ _ _ _ (by omega), Nat.add_sub_cancel_left]
  interval_cases j <;> rfl

/-- The two bytes of a length below `2^16` read back as that length (30_encoding.md R91, 20_memory.md R66). -/
theorem lengthOfBytes_ofNat {l : Nat} (h : l < 65536) : lengthOfBytes (BitVec.ofNat 8 (l / 256)) (BitVec.ofNat 8 (l % 256)) = l := by
  simp only [lengthOfBytes, BitVec.toNat_ofNat]
  omega

/-- The length field of a frame, at offsets 10 and 11, holds the length of the payload. -/
theorem lengthOfBytes_wrapFrame {p : List Byte} (h : p.length < 65536) :
    lengthOfBytes ((wrapFrame p).getD 10 0#8) ((wrapFrame p).getD 11 0#8) = p.length := by
  rw [wrapFrame_getD_add_eight p 2, wrapFrame_getD_add_eight p 3]
  exact lengthOfBytes_ofNat h

end Sys2Proof.Machine

namespace Sys2Proof.Proofs
open Sys2Proof.Machine

/-- Settles O3: the code has no row in the table, so the request need not wait, and serving it answers `IllegalOp` alone. -/
theorem illegalCodeIsAnswered : Obligations.IllegalCodeIsAnswered := by
  unfold Obligations.IllegalCodeIsAnswered
  intro s r rest hs hc hcode
  have hop : decodeOpcode r.code = none := decodeOpcode_eq_none hcode
  refine ⟨?_, rfl, Status.cause_illegalOp_toNat r.code⟩
  rw [step_of_ready hs hc (s.ready_of_decodeOpcode_eq_none hop), State.serve_of_decodeOpcode_eq_none hop]
  rfl

/-- Settles O28, each field by the lemma on its offset; the bound on the payload serves the length field. -/
theorem frameLayout : Obligations.FrameLayout := by
  unfold Obligations.FrameLayout
  intro p hp
  have hlen : p.length < 65536 := by omega
  refine ⟨wrapFrame_length p, fun _ => wrapFrame_getD_preamble p, wrapFrame_getD_add_eight p 0, wrapFrame_getD_add_eight p 1,
    lengthOfBytes_wrapFrame hlen, fun _ => wrapFrame_getD_payload p, wrapFrame_getD_endDelim p (j := 0) (by decide), ?_⟩
  rw [show 13 + p.length = 12 + (p.length + 1) by omega]
  exact wrapFrame_getD_endDelim p (by decide)

end Sys2Proof.Proofs
end

-- ==== Proofs: 41_modulator.md, MOD.ENCODE of nothing ====
section
/-!
SUPPORT. Proofs of the statements on 41_modulator.md: MOD.ENCODE of an empty byte string (R160).
-/
namespace Sys2Proof.Machine

theorem exec_modEncode (bytes : List Byte) (s : State) : exec (.modEncode bytes) s = execModEncode bytes s := rfl

/-- With a configuration and an idle modulator the request is accepted: neither refusal of R135 and R309 applies. -/
theorem execModEncode_of_accepted {s : State} (hvalid : s.cfg.cfgValid = true) (hidle : s.mod.active = false) (bytes : List Byte) :
    execModEncode bytes s = .next (s.startEncode bytes) := by
  simp [execModEncode, hvalid, hidle]

/-- An accepted empty string completes at once: no byte is taken and the modulator makes no step (41_modulator.md R152, R160). -/
@[simp] theorem State.startEncode_nil (s : State) : s.startEncode [] = s.respond .ok .none := rfl

end Sys2Proof.Machine

namespace Sys2Proof.Proofs
open Sys2Proof.Machine

/-- Settles O33: the request is accepted, and an accepted empty string is one answer `Ok`. -/
theorem modEncodeOfNothing : Obligations.ModEncodeOfNothing := by
  unfold Obligations.ModEncodeOfNothing
  intro s hvalid hidle
  rw [exec_modEncode, execModEncode_of_accepted hvalid hidle, State.startEncode_nil]
  rfl

end Sys2Proof.Proofs
end

-- ==== Proofs: 43_frame_encoder.md, the CRC and the constructors ====
section
/-!
SUPPORT. Proofs of the statements on 43_frame_encoder.md: the streaming and the table form of the CRC (R202), and the four constructors
(R207 to R213).
-/
namespace Sys2Proof.Machine

/-! The round of R201 is linear over XOR, and shifts while the bits that leave the register are 0. -/

/-- A round as a shift and an XOR with a mask. -/
theorem crcRound_eq_xor (c : Word32) : crcRound c = (c >>> 1) ^^^ (if c.getLsbD 0 then Config.crcPoly else 0#32) := by
  unfold crcRound
  split <;> simp

theorem crcRound_xor (x y : Word32) : crcRound (x ^^^ y) = crcRound x ^^^ crcRound y := by
  have hmask : (if (x ^^^ y).getLsbD 0 then Config.crcPoly else 0#32) =
      (if x.getLsbD 0 then Config.crcPoly else 0#32) ^^^ (if y.getLsbD 0 then Config.crcPoly else 0#32) := by
    rw [BitVec.getLsbD_xor]
    cases x.getLsbD 0 <;> cases y.getLsbD 0 <;> simp
  simp only [crcRound_eq_xor, hmask, BitVec.ushiftRight_xor_distrib]
  ac_rfl

theorem crcRound_iterate_xor (n : Nat) (x y : Word32) : crcRound^[n] (x ^^^ y) = crcRound^[n] x ^^^ crcRound^[n] y := by
  induction n generalizing x y with
  | zero => rfl
  | succ n ih => simp only [Function.iterate_succ_apply, crcRound_xor, ih]

/-- Rounds that see only zero bits leave the register shifted. -/
theorem crcRound_iterate_of_low_zero {n : Nat} {c : Word32} (h : ∀ i < n, c.getLsbD i = false) : crcRound^[n] c = c >>> n := by
  induction n generalizing c with
  | zero => simp
  | succ n ih =>
    have hround : crcRound c = c >>> 1 := by rw [crcRound, h 0 (by omega)]; rfl
    have hlow : ∀ i < n, (c >>> 1).getLsbD i = false := fun i hi => by
      rw [BitVec.getLsbD_ushiftRight]
      exact h (1 + i) (by omega)
    rw [Function.iterate_succ_apply, hround, ih hlow, ← BitVec.shiftRight_add, Nat.add_comm]

/-! The table form: the low byte goes through the table, the other bytes are shifted. -/

theorem crcByte_eq_iterate (c : Word32) (b : Byte) : crcByte c b = crcRound^[8] (c ^^^ b.setWidth 32) := rfl

/-- Eight rounds of a register are the table value of its low byte and a shift of the rest. -/
theorem crcRound_iterate_eight (x : Word32) : crcRound^[8] x = (x >>> 8) ^^^ crcRound^[8] (x &&& 0xFF#32) := by
  have hlow : ∀ i < 8, (x ^^^ (x &&& 0xFF#32)).getLsbD i = false := fun i hi => by
    have hmask : (0xFF#32).getLsbD i = true := by interval_cases i <;> rfl
    simp [BitVec.getLsbD_xor, BitVec.getLsbD_and, hmask]
  have hhigh : (x ^^^ (x &&& 0xFF#32)) >>> 8 = x >>> 8 := by
    rw [BitVec.ushiftRight_xor_distrib, BitVec.ushiftRight_and_distrib, show 0xFF#32 >>> 8 = 0#32 from rfl, BitVec.and_zero,
      BitVec.xor_zero]
  calc crcRound^[8] x
      = crcRound^[8] ((x ^^^ (x &&& 0xFF#32)) ^^^ (x &&& 0xFF#32)) := by rw [BitVec.xor_assoc, BitVec.xor_self, BitVec.xor_zero]
    _ = (x >>> 8) ^^^ crcRound^[8] (x &&& 0xFF#32) := by
        rw [crcRound_iterate_xor, crcRound_iterate_of_low_zero hlow, hhigh]

/-- One byte by the table (43_frame_encoder.md R202). -/
theorem crcByte_eq_table (c : Word32) (b : Byte) :
    crcByte c b = (c >>> 8) ^^^ crcRound^[8] ((c ^^^ b.setWidth 32) &&& 0xFF#32) := by
  have hbyte : b.setWidth 32 >>> 8 = 0#32 := by
    apply BitVec.eq_of_toNat_eq
    rw [BitVec.toNat_ushiftRight, BitVec.toNat_setWidth_of_le (by decide), Nat.shiftRight_eq_div_pow]
    exact Nat.div_eq_of_lt b.isLt
  rw [crcByte_eq_iterate, crcRound_iterate_eight, BitVec.ushiftRight_xor_distrib, hbyte, BitVec.xor_zero]

/-! The constructors: each is `newMessage` of its kind. -/

theorem exec_msgNewText (sel : Bool) (seq : Word32) (payload : List Byte) (s : State) :
    exec (.msgNewText sel seq payload) s = .next (s.newMessage .text sel seq payload) := rfl

theorem exec_msgNewFile (sel : Bool) (seq : Word32) (payload : List Byte) (s : State) :
    exec (.msgNewFile sel seq payload) s = .next (s.newMessage .file sel seq payload) := rfl

theorem exec_msgNewAck (sel : Bool) (seq : Word32) (payload : List Byte) (s : State) :
    exec (.msgNewAck sel seq payload) s = .next (s.newMessage .ack sel seq payload) := rfl

theorem exec_msgNewPing (sel : Bool) (seq : Word32) (payload : List Byte) (s : State) :
    exec (.msgNewPing sel seq payload) s = .next (s.newMessage .ping sel seq payload) := rfl

/-- A payload that `payload_length` cannot describe is refused (43_frame_encoder.md R208). -/
theorem State.newMessage_of_tooLong {payload : List Byte} (h : payload.length > 65535) (s : State) (k : Kind) (sel : Bool)
    (seq : Word32) : s.newMessage k sel seq payload = s.refuse .badOperand :=
  if_pos h

/-- Any other payload is answered with the Message; only the selected counter advances (43_frame_encoder.md R207, R209). -/
theorem State.newMessage_of_fits {payload : List Byte} (h : payload.length ≤ 65535) (s : State) (k : Kind) (sel : Bool)
    (seq : Word32) :
    s.newMessage k sel seq payload = { s with seqCtr := if sel then s.seqCtr + 1#32 else s.seqCtr }.ok
      (.message (buildMessage s.params.textFormat k (if sel then s.seqCtr else seq) s.timeIn payload)) := by
  rw [State.newMessage, if_neg (show ¬ payload.length > Config.maxMessagePayload from Nat.not_lt.mpr h)]
  cases sel <;> rfl

/-- The length field of a new Message is exact when the payload fits it (43_frame_encoder.md R208). -/
theorem buildMessage_payloadLength {payload : List Byte} (h : payload.length ≤ 65535) (f : TextFormat) (k : Kind) (seq : Word32)
    (time : Word64) : (buildMessage f k seq time payload).header.payloadLength.toNat = payload.length :=
  (BitVec.toNat_ofNat _ 16).trans (Nat.mod_eq_of_lt (by omega))

end Sys2Proof.Machine

namespace Sys2Proof.Proofs
open Sys2Proof.Machine

/-- Settles O23: the register over a concatenation, and the table form of one byte at every byte of the loop. -/
theorem crcStreamsAndTabulates : Obligations.CrcStreamsAndTabulates := by
  unfold Obligations.CrcStreamsAndTabulates
  refine ⟨fun a b => ?_, fun bytes => ?_⟩
  · rw [crc32, crcUpdate_append]
  · rw [crc32, crcUpdate_eq_foldl]
    simp only [← crcByte_eq_table]

/-- Settles O25: the four constructors are `newMessage` of their kinds, which refuses a long payload and answers any other. -/
theorem msgNewCompletes : Obligations.MsgNewCompletes := by
  unfold Obligations.MsgNewCompletes
  intro s sel seq payload i k hi
  have hexec : exec i s = .next (s.newMessage k sel seq payload) := by
    obtain ⟨rfl, rfl⟩ | ⟨rfl, rfl⟩ | ⟨rfl, rfl⟩ | ⟨rfl, rfl⟩ := hi
    · exact exec_msgNewText sel seq payload s
    · exact exec_msgNewFile sel seq payload s
    · exact exec_msgNewAck sel seq payload s
    · exact exec_msgNewPing sel seq payload s
  rw [hexec]
  refine ⟨fun hlong => ?_, fun hfits => ?_⟩
  · rw [State.newMessage_of_tooLong hlong]
    rfl
  · rw [State.newMessage_of_fits hfits]
    exact ⟨_, rfl, rfl, rfl, rfl, rfl, buildMessage_payloadLength hfits s.params.textFormat k _ s.timeIn⟩

end Sys2Proof.Proofs
end

-- ==== Proofs: 44_frame_decoder.md, FDEC.FEED in chunks ====
section
/-!
SUPPORT. Proofs of the statements on 44_frame_decoder.md: FDEC.FEED of a byte string in one chunk and in two (R257).
-/
namespace Sys2Proof.Machine

theorem exec_fdecFeed (chunk : List Byte) (s : State) : exec (.fdecFeed chunk) s = execFdecFeed chunk s := rfl

/-- FDEC is free when neither it nor DEM has an operation in progress. -/
theorem State.fdecBusy_of_idle {s : State} (hfdec : s.fdec.op = none) (hdem : s.dem.op = none) : s.fdecBusy = false := by
  simp [State.fdecBusy, hfdec, hdem]

/-- What a whole FDEC.FEED leaves (44_frame_decoder.md R240): the decoder behind the chunk, the events posted, one answer with the
Messages. -/
def State.fed (s : State) (chunk : List Byte) : State :=
  ({ s with fdec := (feedBytes s.params s.fdec chunk).1 }.postEvents (feedBytes s.params s.fdec chunk).2.2).respond .ok
    (.messages (feedBytes s.params s.fdec chunk).2.1)

/-- Accepted by a free FDEC in serial execution, a chunk is fed whole; an empty one answers at once. -/
theorem State.startFeed_eq_fed {s : State} (hfdec : s.fdec.op = none) (hsched : s.sched = []) (chunk : List Byte) :
    s.startFeed chunk = s.fed chunk := by
  have hop : (feedBytes s.params s.fdec chunk).1.op = none := by rw [feedBytes_op, hfdec]
  cases chunk with
  | nil =>
    have hfdecSame : { s.fdec with op := none } = s.fdec := by rw [← hfdec]
    simp [State.startFeed, State.feedComplete, State.feedConsumeAll, State.fed, feedBytes, State.postEvents_eq, hfdecSame]
  | cons c cs =>
    have hrun : s.startFeed (c :: cs) =
        { s with fdec := { s.fdec with op := some { rest := c :: cs, out := [] } } }.feedConsumeAll (c :: cs).length := by
      simp [State.startFeed, State.feedComplete, hsched]
    have hfdecSame : { (feedBytes s.params s.fdec (c :: cs)).1 with op := none } = (feedBytes s.params s.fdec (c :: cs)).1 := by
      rw [← hop]
    rw [hrun, State.feedConsumeAll_eq _ _ (c :: cs) [] rfl (List.cons_ne_nil c cs) le_rfl]
    simp only [feedBytes_withOp, hfdecSame, State.fed, State.postEvents_eq, State.respond, List.nil_append]

theorem exec_fdecFeed_of_idle {s : State} (hfdec : s.fdec.op = none) (hdem : s.dem.op = none) (hsched : s.sched = [])
    (chunk : List Byte) : exec (.fdecFeed chunk) s = .next (s.fed chunk) := by
  rw [exec_fdecFeed, execFdecFeed, State.fdecBusy_of_idle hfdec hdem, State.startFeed_eq_fed hfdec hsched]
  rfl

/-! What `fed` does to the fields a second FDEC.FEED depends on. -/

@[simp] theorem State.fed_params (s : State) (chunk : List Byte) : (s.fed chunk).params = s.params := by simp [State.fed]

@[simp] theorem State.fed_dem (s : State) (chunk : List Byte) : (s.fed chunk).dem = s.dem := by simp [State.fed]

@[simp] theorem State.fed_sched (s : State) (chunk : List Byte) : (s.fed chunk).sched = s.sched := by simp [State.fed]

@[simp] theorem State.fed_fdec (s : State) (chunk : List Byte) : (s.fed chunk).fdec = (feedBytes s.params s.fdec chunk).1 := by
  simp [State.fed]

@[simp] theorem State.fed_rspOut (s : State) (chunk : List Byte) :
    (s.fed chunk).rspOut = s.rspOut ++ [{ status := .ok, value := .messages (feedBytes s.params s.fdec chunk).2.1 }] := by
  simp [State.fed]

/-- One chunk and its two pieces leave the same state but for the answers (44_frame_decoder.md R257). -/
theorem State.fed_append (s : State) (a b : List Byte) :
    s.fed (a ++ b) = { (s.fed a).fed b with rspOut := (s.fed (a ++ b)).rspOut } := by
  simp only [State.fed, feedBytes_append, State.postEvents_eq, State.respond]
  cases s.params.debugEvents <;> simp

end Sys2Proof.Machine

namespace Sys2Proof.Proofs
open Sys2Proof.Machine

/-- Settles O55: each of the three requests is fed whole, and feeding a concatenation is feeding its pieces. -/
theorem chunkingDoesNotMatter : Obligations.ChunkingDoesNotMatter := by
  unfold Obligations.ChunkingDoesNotMatter
  intro s a b hfdec hdem hsched
  have hfdec' : (s.fed a).fdec.op = none := by rw [State.fed_fdec, feedBytes_op, hfdec]
  refine ⟨s.fed (a ++ b), s.fed a, (s.fed a).fed b, (feedBytes s.params s.fdec a).2.1,
    (feedBytes s.params (feedBytes s.params s.fdec a).1 b).2.1, exec_fdecFeed_of_idle hfdec hdem hsched _,
    exec_fdecFeed_of_idle hfdec hdem hsched a,
    exec_fdecFeed_of_idle hfdec' (by rw [State.fed_dem, hdem]) (by rw [State.fed_sched, hsched]) b, ?_, ?_, State.fed_append s a b⟩
  · rw [State.fed_rspOut, feedBytes_append]
  · simp

end Sys2Proof.Proofs
end

-- ==== Proofs: 30_encoding.md and 20_memory.md, requests, waiting and the step ====
section
/-!
SUPPORT. Proofs of the statements on requests: decoding and encoding (30_encoding.md R119, R120), which requests wait and in which order they
are taken (20_memory.md R63, 70_reset_and_hazards.md R332), the step and the turns of the outside.
-/

-- One declaration after another: fewer threads, and so less memory, at a time.
set_option Elab.async false

namespace Sys2Proof.Machine

/-! Decoding. -/

/-- Every instruction is read back from its own encoding, well-formed or not. -/
theorem operandsReadBack (i : Instr) : Laws.OperandsReadBack.Statement i := by
  cases i <;> exact ⟨rfl, rfl⟩

/-- Operands that are read as an instruction are those of its encoding, except that CORE.RESET takes no notice of them (log 15). -/
theorem decodeOperands_eq_some {op : Opcode} {ops : List Operand} {i : Instr} (h : decodeOperands op ops = some i) :
    opcodeOf i = op ∧ (i ≠ .coreReset → ops = encodeOperands i) := by
  unfold decodeOperands at h
  cases op <;> dsimp only at h <;> (try split at h) <;> cases h <;> simp [opcodeOf, encodeOperands]

/-- What a request that decodes to an instruction must be. -/
theorem decode_eq_ok_iff (r : Request) (i : Instr) :
    decode r = .ok i ↔
      ∃ op, decodeOpcode r.code = some op ∧ decodeOperands op r.operands = some i ∧ i.wellFormed = true := by
  unfold decode
  cases hop : decodeOpcode r.code with
  | none => simp
  | some op =>
    cases hi : decodeOperands op r.operands with
    | none => simp [hi]
    | some j => by_cases hw : j.wellFormed = true <;> simp [hi, hw] <;> rintro rfl <;> simp [hw]

theorem decode_encode {i : Instr} (h : i.wellFormed = true) : decode (encode i) = .ok i :=
  (decode_eq_ok_iff _ _).mpr ⟨opcodeOf i, (operandsReadBack i).1, (operandsReadBack i).2, h⟩

/-! Serving. -/

/-- Serving a request that decodes runs its instruction. -/
theorem State.serve_of_decode {r : Request} {i : Instr} (h : decode r = .ok i) (s : State) : s.serve r = exec i s := by
  simp [State.serve, h]

/-- A turn that serves takes the request at the front when it need not wait. -/
theorem step_serve_of_ready {s : State} {r : Request} {rest : List Request} {ts : List Turn} (hs : s.sched = .serve :: ts)
    (hc : s.cmdIn = r :: rest) (h : s.ready r = true) : step s = { s with cmdIn := rest, sched := ts }.serve r := by
  have hn : ({ s with sched := ts } : State).serveNext = some ({ s with cmdIn := rest, sched := ts }.serve r) :=
    State.serveNext_of_ready (s := { s with sched := ts }) hc h
  simp [step, hs, State.turn, hn]

/-! Which requests wait. -/

/-- A request has to wait when its code names an operation whose unit is in use. -/
theorem State.ready_eq_false_iff (s : State) (r : Request) :
    s.ready r = false ↔ ∃ op, decodeOpcode r.code = some op ∧ s.opMustWait op = true := by
  unfold State.ready
  cases decodeOpcode r.code <;> simp

theorem State.demBusy_iff (s : State) : s.demBusy = true ↔ s.dem.op ≠ none := by
  simp [State.demBusy, Option.isSome_iff_ne_none]

theorem State.fdecBusy_iff (s : State) :
    s.fdecBusy = true ↔ s.fdec.op ≠ none ∨ ∃ left sent, s.dem.op = some (.recv left sent) := by
  unfold State.fdecBusy
  split
  · next left sent h => simp [h]
  · next h =>
    simp only [Bool.or_false, Option.isSome_iff_ne_none]
    exact ⟨.inl, fun h' => h'.resolve_right fun ⟨left, sent, e⟩ => h left sent e⟩

/-- The operations that wait, and the units they wait for (60_exceptions.md R318; log 20). -/
theorem State.opMustWait_iff (s : State) (op : Opcode) :
    s.opMustWait op = true ↔
      (op ∈ [Opcode.demInit, .detClassify, .demDecode, .demPush] ∧ s.dem.op ≠ none) ∨
        (op ∈ [Opcode.fdecInit, .fdecFeed, .fdecDeser] ∧
          (s.fdec.op ≠ none ∨ ∃ left sent, s.dem.op = some (.recv left sent))) ∨
        (op = .rxRecv ∧ (s.dem.op ≠ none ∨ s.fdec.op ≠ none)) := by
  have hrecv : (∃ left sent, s.dem.op = some (.recv left sent)) → s.dem.op ≠ none := by
    rintro ⟨left, sent, h⟩
    simp [h]
  cases op <;> simp [State.opMustWait, State.demBusy_iff, State.fdecBusy_iff]
  case rxRecv =>
    constructor
    · rintro (h | h | h)
      exacts [.inl h, .inr h, .inl (hrecv h)]
    · rintro (h | h)
      exacts [.inl h, .inr (.inl h)]

/-! What a step leaves alone when it takes no request. -/

/-- The units going on leave the configuration, the parameters and `cmd_in`; a turn that does not serve does too, but for a request
that the host puts behind those on `cmd_in`. -/
theorem State.turn_frame {s t : State} {u : Turn} (hu : u ≠ .serve) (h : s.turn u = .next t) :
    t.params = s.params ∧ t.cfg = s.cfg ∧ ∃ more, t.cmdIn = s.cmdIn ++ more := by
  cases u with
  | serve => exact absurd rfl hu
  | mod =>
    cases h
    rw [State.modStep, State.modAdvance_transmitOnly s _]
    exact ⟨rfl, rfl, [], by simp⟩
  | dem =>
    cases h
    rw [State.demStep_receiveOnly s]
    exact ⟨rfl, rfl, [], by simp⟩
  | fdec =>
    cases h
    rw [State.feedConsume_receiveOnly s]
    exact ⟨rfl, rfl, [], by simp⟩
  | request r => cases h; exact ⟨rfl, rfl, [r], rfl⟩
  | sample x => cases h; exact ⟨rfl, rfl, [], by simp⟩
  | time t => cases h; exact ⟨rfl, rfl, [], by simp⟩

/-- Everything a step can be: it takes a request and serves it, or it takes none and leaves the configuration unit, the parameters and
the requests on `cmd_in`. -/
theorem step_cases {s t : State} (h : step s = .next t) :
    (∃ ts, ((s.sched = [] ∧ ts = []) ∨ s.sched = .serve :: ts) ∧ { s with sched := ts }.serveNext = some (.next t)) ∨
    (t.params = s.params ∧ t.cfg = s.cfg ∧ ∃ more, t.cmdIn = s.cmdIn ++ more) := by
  unfold step at h
  split at h
  · next u ts hs =>
    by_cases hu : u = .serve
    · subst hu
      simp only [State.turn] at h
      cases hn : ({ s with sched := ts } : State).serveNext with
      | none =>
        rw [hn] at h
        cases h
        exact .inr ⟨rfl, rfl, [], by simp⟩
      | some o =>
        rw [hn] at h
        exact .inl ⟨ts, .inr hs, by rw [hn]; exact congrArg some h⟩
    · exact .inr (State.turn_frame (s := { s with sched := ts }) hu h)
  · next hs =>
    cases hn : s.serveNext with
    | none =>
      rw [hn] at h
      cases h
      obtain ⟨hp, hc, hcmd, -⟩ := State.finishAll_frame s
      exact .inr ⟨hp, hc, [], by simp [hcmd]⟩
    | some o =>
      rw [hn] at h
      refine .inl ⟨[], .inl ⟨hs, rfl⟩, ?_⟩
      rw [show ({ s with sched := [] } : State) = s by rw [← hs], hn]
      exact congrArg some h

/-- A request that waits, with no CORE.RESET behind it, stays where it is, whatever the step. -/
theorem step_of_waits {s t : State} {r : Request} {rest : List Request} (hc : s.cmdIn = r :: rest) (hr : s.ready r = false)
    (hq : ∀ q ∈ rest, isCoreReset q = false) (h : step s = .next t) :
    t.cfg = s.cfg ∧ ∃ more, t.cmdIn = r :: rest ++ more := by
  obtain ⟨ts, -, hn⟩ | ⟨-, hcfg, hmore⟩ := step_cases h
  · have hnone : ({ s with sched := ts } : State).serveNext = none := State.serveNext_of_waits (s := { s with sched := ts }) hc hr hq
    simp [hnone] at hn
  · exact ⟨hcfg, hc ▸ hmore⟩

theorem isCoreReset_eq_false_iff (r : Request) : isCoreReset r = false ↔ r.code ≠ 0x00#8 := by
  rw [← Bool.not_eq_true, isCoreReset_iff]

/-! Instructions that wait. -/

/-- An instruction whose unit is busy puts its request back (60_exceptions.md R318; log 20). -/
theorem exec_of_mustWait {i : Instr} {s : State} (h : s.mustWait i = true) : exec i s = .next (s.requeue i) := by
  cases i <;> simp only [State.mustWait, opcodeOf, State.opMustWait, Bool.false_eq_true] at h <;>
    simp [exec, execDemInit, execDetClassify, execDemDecode, execDemPush, execFdecInit, execFdecFeed, execFdecDeser, execRxRecv, h]

/-! A core at rest. -/

theorem State.modFinish_of_idle {s : State} (h : s.mod.active = false) : s.modFinish = s := by
  simp [State.modFinish, State.modAdvance_eq, h]

theorem State.demFinish_of_idle {s : State} (h : s.dem.op = none) : s.demFinish = s := by
  simp [State.demFinish, h]

theorem State.feedFinish_of_idle {s : State} (h : s.fdec.op = none) : s.feedFinish = s := by
  simp [State.feedFinish, h]

theorem State.finishAll_of_quiet {s : State} (h : Quiet s) : s.finishAll = s := by
  obtain ⟨hmod, hdem, hfdec⟩ := h
  rw [State.finishAll, State.modFinish_of_idle hmod, State.demFinish_of_idle hdem, State.feedFinish_of_idle hfdec]

/-- With no turn scheduled and nothing on `cmd_in`, a step lets every unit go on. -/
theorem step_of_no_request {s : State} (hs : s.sched = []) (hc : s.cmdIn = []) : step s = .next s.finishAll := by
  simp [step, hs, State.serveNext, hc]

end Sys2Proof.Machine

namespace Sys2Proof.Proofs
open Sys2Proof.Machine

/-- Settles O1, by evaluating the decoder on each code. -/
theorem tableCodesDecode : Obligations.TableCodesDecode := by
  unfold Obligations.TableCodesDecode
  exact ⟨rfl, rfl, rfl, rfl, rfl, rfl, rfl, rfl, rfl⟩

/-- Settles O2: the code and the operands of an encoding are read back, and a code is the code of what it names. -/
theorem decodeInvertsEncode : Obligations.DecodeInvertsEncode := by
  unfold Obligations.DecodeInvertsEncode
  refine ⟨fun i => decode_encode, fun r i h => ?_⟩
  obtain ⟨op, hop, hi, hw⟩ := (decode_eq_ok_iff r i).mp h
  obtain ⟨rfl, hops⟩ := decodeOperands_eq_some hi
  have hcode : r.code = (encode i).code := decodeOpcode_eq_some hop
  refine ⟨hw, hcode, fun hne => ?_⟩
  obtain ⟨code, operands⟩ := r
  exact congrArg₂ Request.mk hcode (hops hne)

/-- Settles O4: the request is ready, so the step takes and serves it. -/
theorem stepRunsDecodedRequest : Obligations.StepRunsDecodedRequest := by
  unfold Obligations.StepRunsDecodedRequest
  intro s r rest i hc hd hw
  have hr : s.ready r = true := by rw [State.ready_of_decode hd, hw]; rfl
  refine ⟨fun hs => ?_, fun ts hs => ?_⟩
  · rw [step_of_ready hs hc hr, State.serve_of_decode hd]
  · rw [step_serve_of_ready hs hc hr, State.serve_of_decode hd]

/-- Settles O5: which requests wait, and the step of a request at the front that is ready, that waits, and that a CORE.RESET passes. -/
theorem waitingRequestsKeepTheirOrder : Obligations.WaitingRequestsKeepTheirOrder := by
  unfold Obligations.WaitingRequestsKeepTheirOrder
  intro s r rest hc
  refine ⟨?_, fun hr => ⟨fun hs => step_of_ready hs hc hr, fun ts hs => step_serve_of_ready hs hc hr⟩, ?_, ?_⟩
  · simp only [State.ready_eq_false_iff, State.opMustWait_iff]
  · intro hr hq t ht
    exact step_of_waits hc hr (fun q hm => (isCoreReset_eq_false_iff q).mpr (hq q hm)) ht
  · rintro hr pre q post rfl hpre hq
    have hpre' : ∀ x ∈ pre, isCoreReset x = false := fun x hm => (isCoreReset_eq_false_iff x).mpr (hpre x hm)
    have hq' : isCoreReset q = true := (isCoreReset_iff q).mpr hq
    refine ⟨fun hs => ?_, fun ts hs => ?_, fun u ts hs hu t ht => ?_⟩
    · simp [step, hs, State.serveNext_of_reset hc hr hpre' hq']
    · have hn := State.serveNext_of_reset (s := { s with sched := ts }) hc hr hpre' hq'
      simp [step, hs, State.turn, hn]
    · simp only [step, hs] at ht
      obtain ⟨-, hcfg, hmore⟩ := State.turn_frame (s := { s with sched := ts }) hu ht
      exact ⟨hcfg, hc ▸ hmore⟩

/-- Settles O6, by the lemma on instructions whose unit is busy. -/
theorem busyUnitRequestWaits : Obligations.BusyUnitRequestWaits := by
  unfold Obligations.BusyUnitRequestWaits
  intro i s h
  exact exec_of_mustWait h

/-- Settles O7: with nothing to serve the units go on, and there is nothing to go on with. -/
theorem idleCoreDoesNothing : Obligations.IdleCoreDoesNothing := by
  unfold Obligations.IdleCoreDoesNothing
  intro s hq hs hc
  rw [step_of_no_request hs hc, State.finishAll_of_quiet hq]

/-- Settles O8, turn by turn. -/
theorem outsideTurnsTouchOnePort : Obligations.OutsideTurnsTouchOnePort := by
  unfold Obligations.OutsideTurnsTouchOnePort
  intro s ts
  refine ⟨fun r hs => ?_, fun x hs => ?_, fun t hs => ?_⟩ <;> simp [step, hs, State.turn]

end Sys2Proof.Proofs
end

-- ==== Proofs: 40_config.md and 70_reset_and_hazards.md, the system operations ====
section
/-!
SUPPORT. Proofs of the statements on 40_config.md: rounding and the transform size (00_scope.md R8, R12), CFG.LOAD and its checks (R130 to
R134), CSR.READ and the STATUS word (R140, 10_state.md R30), CORE.RESET and the reset state (R136, 70_reset_and_hazards.md R331).
-/

-- One declaration after another: fewer threads, and so less memory, at a time.
set_option Elab.async false

namespace Sys2Proof.Machine

/-! Rounding and powers of two. -/

theorem roundHalfUp_eq_floor (x : Rat) : roundHalfUp x = ⌊x + 1 / 2⌋.toNat := rfl

theorem roundHalfUp_eq_iff {x : Rat} {n : Nat} (hx : 0 ≤ x) :
    roundHalfUp x = n ↔ (n : Rat) - 1 / 2 ≤ x ∧ x < (n : Rat) + 1 / 2 := by
  have hfloor : 0 ≤ ⌊x + 1 / 2⌋ := Int.floor_nonneg.mpr (by linarith)
  have hcast : ⌊x + 1 / 2⌋.toNat = n ↔ ⌊x + 1 / 2⌋ = (n : Int) := by omega
  rw [roundHalfUp_eq_floor, hcast, Int.floor_eq_iff, Int.cast_natCast]
  constructor <;> rintro ⟨h1, h2⟩ <;> constructor <;> linarith

theorem pow2AtLeast_of_le_one {n : Nat} (h : n ≤ 1) : pow2AtLeast n = 1 := if_pos h

theorem pow2AtLeast_of_one_lt {n : Nat} (h : 1 < n) : pow2AtLeast n = 2 ^ (Nat.log2 (n - 1) + 1) := if_neg (by omega)

/-- The transform size is a power of two (00_scope.md R8). -/
theorem pow2AtLeast_eq_two_pow (n : Nat) : ∃ k, pow2AtLeast n = 2 ^ k := by
  unfold pow2AtLeast
  split
  · exact ⟨0, rfl⟩
  · exact ⟨_, rfl⟩

theorem le_pow2AtLeast (n : Nat) : n ≤ pow2AtLeast n := by
  rcases Nat.lt_or_ge 1 n with h | h
  · have := Nat.lt_log2_self (n := n - 1)
    rw [pow2AtLeast_of_one_lt h]
    omega
  · rw [pow2AtLeast_of_le_one h]
    exact h

theorem pow2AtLeast_lt {n : Nat} (hn : 1 ≤ n) : pow2AtLeast n < 2 * n := by
  rcases Nat.lt_or_ge 1 n with h | h
  · have := Nat.log2_self_le (n := n - 1) (by omega)
    rw [pow2AtLeast_of_one_lt h, Nat.pow_succ]
    omega
  · rw [pow2AtLeast_of_le_one h]
    omega

/-- No power of two that is large enough is smaller. -/
theorem pow2AtLeast_le_two_pow {n k : Nat} (h : n ≤ 2 ^ k) : pow2AtLeast n ≤ 2 ^ k := by
  rcases Nat.lt_or_ge 1 n with h1 | h1
  · rw [pow2AtLeast_of_one_lt h1]
    have hlog : Nat.log2 (n - 1) < k := (Nat.log2_lt (by omega)).mpr (by omega)
    exact Nat.pow_le_pow_right (by decide) hlog
  · rw [pow2AtLeast_of_le_one h1]
    exact Nat.one_le_two_pow

/-! Target bins. -/

/-- A tone below half the sample rate has its target bin at or below half the transform size (40_config.md R132, R133). -/
theorem two_mul_targetBin_le {freq rate : Rat} (n : Nat) (hf : 0 < freq) (hr : freq < rate / 2) :
    2 * targetBin freq rate n ≤ n := by
  have hrate : 0 < rate := by linarith
  obtain ⟨hlow, -⟩ := (roundHalfUp_eq_iff (n := targetBin freq rate n) (x := freq * n / rate) (by positivity)).mp rfl
  rcases Nat.eq_zero_or_pos n with rfl | hn
  · have hle : ((2 * targetBin freq rate 0 : Nat) : Rat) ≤ ((1 : Nat) : Rat) := by
      push_cast at hlow ⊢
      simp only [mul_zero, zero_div] at hlow
      linarith
    have := Nat.cast_le.mp hle
    omega
  · have hhalf : freq * n / rate < n / 2 := by
      rw [div_lt_div_iff₀ hrate two_pos]
      nlinarith [(Nat.cast_pos.mpr hn : (0 : Rat) < n)]
    have hlt : ((2 * targetBin freq rate n : Nat) : Rat) < ((n + 1 : Nat) : Rat) := by
      push_cast
      linarith
    have := Nat.cast_lt.mp hlt
    omega

/-! The checks of CFG.LOAD: the first condition that fails is the one that is reported. -/

/-- Condition `k` fails and those before it hold. -/
def FirstFailed (nMax : Option Nat) (c : ModConfig) (k : Nat) : Prop :=
  1 ≤ k ∧ conditionsHoldUpTo nMax c (k - 1) ∧ ¬ conditionHolds nMax c k

section
variable {nMax : Option Nat} {c : ModConfig}

theorem conditionsHoldUpTo_zero : conditionsHoldUpTo nMax c 0 := fun j h1 h2 => by omega

theorem conditionsHoldUpTo.succ {k : Nat} (h : conditionsHoldUpTo nMax c k) (hk : conditionHolds nMax c (k + 1)) :
    conditionsHoldUpTo nMax c (k + 1) := fun j h1 h2 => by
  rcases Nat.lt_or_ge k j with hj | hj
  · rwa [show j = k + 1 by omega]
  · exact h j h1 hj

theorem conditionsHoldUpTo.failed {k : Nat} (h : conditionsHoldUpTo nMax c k) (hk : ¬ conditionHolds nMax c (k + 1)) :
    FirstFailed nMax c (k + 1) := ⟨by omega, h, hk⟩

/-- No condition that fails first has all conditions up to a later one hold. -/
theorem FirstFailed.not_upTo {j k : Nat} (h : FirstFailed nMax c k) (hj : k ≤ j) : ¬ conditionsHoldUpTo nMax c j :=
  fun hup => h.2.2 (hup k h.1 hj)

theorem FirstFailed.unique {j k : Nat} (hj : FirstFailed nMax c j) (hk : FirstFailed nMax c k) : j = k := by
  obtain ⟨hj1, hjup, hjf⟩ := hj
  obtain ⟨hk1, hkup, hkf⟩ := hk
  by_contra hne
  rcases Nat.lt_or_gt_of_ne hne with h | h
  · exact hjf (hkup j hj1 (by omega))
  · exact hkf (hjup k hk1 (by omega))

/-- The base checks report the first of conditions 1 to 6 that fails (40_config.md R131). -/
theorem baseFailure_spec (nMax : Option Nat) (c : ModConfig) :
    (baseFailure c = none ∧ conditionsHoldUpTo nMax c 6) ∨
      ∃ check, baseFailure c = some check ∧ check.number ≤ 6 ∧ FirstFailed nMax c check.number := by
  unfold baseFailure
  have up0 : conditionsHoldUpTo nMax c 0 := conditionsHoldUpTo_zero
  split
  · next h => exact .inr ⟨_, rfl, by decide, up0.failed h⟩
  next h1 =>
  have up1 := up0.succ (not_not.mp h1)
  split
  · next h => exact .inr ⟨_, rfl, by decide, up1.failed h⟩
  next h2 =>
  have up2 := up1.succ (not_not.mp h2)
  split
  · next h => exact .inr ⟨_, rfl, by decide, up2.failed (not_not.mpr h)⟩
  next h3 =>
  have up3 := up2.succ h3
  split
  · next h => exact .inr ⟨_, rfl, by decide, up3.failed h⟩
  next h4 =>
  have up4 := up3.succ (not_not.mp h4)
  split
  · next h => exact .inr ⟨_, rfl, by decide, up4.failed h⟩
  next h5 =>
  have up5 := up4.succ (not_not.mp h5)
  split
  · next h => exact .inr ⟨_, rfl, by decide, up5.failed h⟩
  next h6 => exact .inl ⟨rfl, up5.succ (not_not.mp h6)⟩

/-- The derived checks report the first of conditions 7 and 8 that fails (40_config.md R131). -/
theorem derivedFailure_spec (r : CfgRegs) (up6 : conditionsHoldUpTo nMax c 6) :
    (derivedFailure (r.writeConf c).deriveSymbol.sps (r.writeConf c).deriveSymbol.rampN = none ∧ conditionsHoldUpTo nMax c 8) ∨
      ∃ check, derivedFailure (r.writeConf c).deriveSymbol.sps (r.writeConf c).deriveSymbol.rampN = some check ∧
        7 ≤ check.number ∧ check.number ≤ 8 ∧ FirstFailed nMax c check.number := by
  unfold derivedFailure
  split
  · next h => exact .inr ⟨_, rfl, by decide, by decide, up6.failed h⟩
  next h7 =>
  have up7 := up6.succ (not_not.mp h7)
  split
  · next h => exact .inr ⟨_, rfl, by decide, by decide, up7.failed h⟩
  next h8 => exact .inl ⟨rfl, up7.succ (not_not.mp h8)⟩

/-- The transform is larger than `N_MAX` exactly when condition 9 fails. -/
theorem nMax_any_lt_iff (nMax : Option Nat) (n : Nat) :
    nMax.any (fun m => m < n) = true ↔ ¬ ∀ m, nMax = some m → n ≤ m := by
  cases nMax <;> simp

/-- The demodulator checks report the first of conditions 9 to 11 that fails (40_config.md R132). -/
theorem demodFailure_spec (r : CfgRegs) (up8 : conditionsHoldUpTo nMax c 8) :
    (demodFailure nMax (r.writeConf c).deriveSymbol.deriveTransform.fftN (r.writeConf c).deriveSymbol.deriveTransform.bin0
        (r.writeConf c).deriveSymbol.deriveTransform.bin1 = none ∧ conditionsHoldUpTo nMax c 11) ∨
      ∃ check, demodFailure nMax (r.writeConf c).deriveSymbol.deriveTransform.fftN (r.writeConf c).deriveSymbol.deriveTransform.bin0
          (r.writeConf c).deriveSymbol.deriveTransform.bin1 = some check ∧ 9 ≤ check.number ∧ FirstFailed nMax c check.number := by
  unfold demodFailure
  split
  · next h => exact .inr ⟨_, rfl, by decide, up8.failed ((nMax_any_lt_iff _ _).mp h)⟩
  next h9 =>
  have up9 := up8.succ (not_not.mp (mt (nMax_any_lt_iff _ _).mpr h9))
  split
  · next h => exact .inr ⟨_, rfl, by decide, up9.failed h⟩
  next h10 =>
  have up10 := up9.succ (not_not.mp h10)
  split
  · next h => exact .inr ⟨_, rfl, by decide, up10.failed h⟩
  next h11 => exact .inl ⟨rfl, up10.succ (not_not.mp h11)⟩

end

/-! A load. -/

/-- The configuration unit after a load that writes all (40_config.md R130). -/
def CfgRegs.loaded (r : CfgRegs) (c : ModConfig) : CfgRegs := { (r.writeConf c).deriveSymbol.deriveTransform with demValid := true }

/-- The configuration unit after a load whose check number `k` failed: the writes of the steps before that check (40_config.md R130). -/
def CfgRegs.writtenBefore (r : CfgRegs) (c : ModConfig) (k : Nat) : CfgRegs :=
  if k ≤ 6 then r.writeConf c
  else if k ≤ 8 then (r.writeConf c).deriveSymbol
  else (r.writeConf c).deriveSymbol.deriveTransform

/-- Everything a load can do: all conditions hold and all is written, or the first that fails is reported and the writes before it stay. -/
theorem CfgRegs.load_cases (r : CfgRegs) (nMax : Option Nat) (c : ModConfig) :
    (conditionsHoldUpTo nMax c 11 ∧ r.load nMax c = (r.loaded c, none)) ∨
      ∃ check, FirstFailed nMax c check.number ∧ r.load nMax c = (r.writtenBefore c check.number, some check) := by
  unfold CfgRegs.load CfgRegs.writtenBefore
  obtain ⟨hb, up6⟩ | ⟨check, hb, hle, hf⟩ := baseFailure_spec nMax c
  · obtain ⟨hd, up8⟩ | ⟨check, hd, hge, hle, hf⟩ := derivedFailure_spec r up6
    · obtain ⟨hm, up11⟩ | ⟨check, hm, hge, hf⟩ := demodFailure_spec r up8
      · exact .inl ⟨up11, by simp only [hb, hd, hm]; rfl⟩
      · refine .inr ⟨check, hf, ?_⟩
        simp only [hb, hd, hm]
        rw [if_neg (by omega), if_neg (by omega)]
    · refine .inr ⟨check, hf, ?_⟩
      simp only [hb, hd]
      rw [if_neg (by omega), if_pos hle]
  · refine .inr ⟨check, hf, ?_⟩
    simp only [hb]
    rw [if_pos hle]

theorem CfgRegs.load_of_conditions (r : CfgRegs) {nMax : Option Nat} {c : ModConfig} (h : conditionsHoldUpTo nMax c 11) :
    r.load nMax c = (r.loaded c, none) := by
  obtain ⟨-, hl⟩ | ⟨check, hf, -⟩ := r.load_cases nMax c
  · exact hl
  · exact absurd h (hf.not_upTo (by cases check <;> decide))

theorem CfgRegs.load_of_firstFailed (r : CfgRegs) {nMax : Option Nat} {c : ModConfig} {k : Nat} (h : FirstFailed nMax c k)
    (hk : k ≤ 11) : ∃ check : ConfigCheck, check.number = k ∧ r.load nMax c = (r.writtenBefore c k, some check) := by
  obtain ⟨hup, -⟩ | ⟨check, hf, hl⟩ := r.load_cases nMax c
  · exact absurd hup (h.not_upTo hk)
  · obtain rfl := hf.unique h
    exact ⟨check, rfl, hl⟩

/-- The registers after a load that failed, as far as it got (60_exceptions.md R312; 93_implementation_defined.md I12). -/
theorem CfgRegs.writtenBefore_spec (r : CfgRegs) (c : ModConfig) (k : Nat) :
    (r.writtenBefore c k).conf = c ∧ (r.writtenBefore c k).demValid = false ∧ ((r.writtenBefore c k).cfgValid = true ↔ 9 ≤ k) ∧
    (k ≤ 6 → (r.writtenBefore c k).sps = r.sps ∧ (r.writtenBefore c k).rampN = r.rampN) ∧
    (7 ≤ k → (r.writtenBefore c k).sps = roundHalfUp (c.sampleRate * c.symbolDuration) ∧
      (r.writtenBefore c k).rampN = roundHalfUp (c.sampleRate * c.rampDuration)) ∧
    (k ≤ 8 → (r.writtenBefore c k).fftN = r.fftN ∧ (r.writtenBefore c k).bin0 = r.bin0 ∧ (r.writtenBefore c k).bin1 = r.bin1 ∧
      (r.writtenBefore c k).fftPlan = r.fftPlan) ∧
    (9 ≤ k → (r.writtenBefore c k).fftN = pow2AtLeast (r.writtenBefore c k).sps ∧
      (r.writtenBefore c k).bin0 = targetBin c.freq0 c.sampleRate (r.writtenBefore c k).fftN ∧
      (r.writtenBefore c k).bin1 = targetBin c.freq1 c.sampleRate (r.writtenBefore c k).fftN ∧
      (r.writtenBefore c k).fftPlan = (r.writtenBefore c k).fftN) := by
  unfold CfgRegs.writtenBefore
  split
  · simp; omega
  · split
    · simp; omega
    · simp; omega

theorem exec_cfgLoad (c : ModConfig) (s : State) : exec (.cfgLoad c) s = execCfgLoad c s := rfl

theorem State.cfgBusy_iff (s : State) : s.cfgBusy = true ↔ s.mod.active = true ∨ s.dem.op ≠ none := by
  simp [State.cfgBusy, State.demBusy_iff]

theorem State.cfgBusy_of_idle {s : State} (hmod : s.mod.active = false) (hdem : s.dem.op = none) : s.cfgBusy = false := by
  simp [State.cfgBusy, State.demBusy, hmod, hdem]

/-- The cause of `ConfigError` is the number of the check (60_exceptions.md R300). -/
theorem Status.cause_configError_toNat (check : ConfigCheck) : (Status.configError check).cause.toNat = check.number := by
  cases check <;> rfl

/-! The read port. -/

/-- The register a number names has that number in the table (10_state.md R30). -/
theorem csrOfNumber_eq_some_iff (n : Byte) (r : CsrName) : csrOfNumber n = some r ↔ (n, r) ∈ csrTable := by
  constructor
  · intro h
    obtain ⟨⟨m, q⟩, hfind, rfl⟩ := Option.map_eq_some_iff.mp h
    have hm : m = n := by simpa using List.find?_some hfind
    exact hm ▸ List.mem_of_find?_eq_some hfind
  · intro h
    have hrow : ∀ row ∈ csrTable, csrOfNumber row.1 = some row.2 := by decide
    exact hrow _ h

theorem csrOfNumber_eq_none {n : Byte} (h : csrOfNumber n = none) : n ∉ csrTable.map Prod.fst := by
  intro hm
  obtain ⟨⟨m, r⟩, hrow, rfl⟩ := List.mem_map.mp hm
  simp [(csrOfNumber_eq_some_iff m r).mpr hrow] at h

theorem exec_csrRead_of_some {n : Byte} {r : CsrName} (h : csrOfNumber n = some r) (s : State) :
    exec (.csrRead n) s = .next (s.readCsr r) := by
  simp [exec, execCsrRead, h]

theorem exec_csrRead_of_none {n : Byte} (h : csrOfNumber n = none) (s : State) :
    exec (.csrRead n) s = .next (s.respond .ok (.word 0#32)) := by
  simp [exec, execCsrRead, h]

/-- The register is one of the configuration unit, which are unspecified while `cfg_valid = 0` (10_state.md R30). -/
def CsrName.ofCfg : CsrName → Bool
  | .status | .seqCtr | .fdecLevel | .fdecLen | .fdecPayLevel | .rxFill | .rxShift => false
  | _ => true

/-- The value of a register that is defined (10_state.md R30). -/
def State.csrDefined (s : State) : CsrName → Value
  | .cfgSampleRate => .word (word32OfNat s.cfg.conf.sampleRate.num.toNat)
  | .cfgFreq0 => sendNumber s.params.numFormat s.cfg.conf.freq0
  | .cfgFreq1 => sendNumber s.params.numFormat s.cfg.conf.freq1
  | .cfgSymbolDuration => sendNumber s.params.numFormat s.cfg.conf.symbolDuration
  | .cfgRampDuration => sendNumber s.params.numFormat s.cfg.conf.rampDuration
  | .cfgAmplitude => sendNumber s.params.numFormat s.cfg.conf.amplitude
  | .drvSps => .word (word32OfNat s.cfg.sps)
  | .drvRamp => .word (word32OfNat s.cfg.rampN)
  | .drvN => .word (word32OfNat s.cfg.fftN)
  | .drvBin0 => .word (word32OfNat s.cfg.bin0)
  | .drvBin1 => .word (word32OfNat s.cfg.bin1)
  | .status => .word s.status
  | .seqCtr => .word s.seqCtr
  | .fdecLevel => .word (word32OfNat s.fdec.buf.length)
  | .fdecLen => .word (word32OfNat s.fdec.len)
  | .fdecPayLevel => .word (word32OfNat s.fdec.pay.length)
  | .rxFill => .word (word32OfNat s.dem.rxFill)
  | .rxShift => .word (s.dem.rxShift.setWidth 32)

/-- The draw that an unspecified register reads as: in the number format for the rational-valued ones (log 7). -/
def State.csrDrawn (s : State) : CsrName → Value
  | .cfgFreq0 | .cfgFreq1 | .cfgSymbolDuration | .cfgRampDuration | .cfgAmplitude => drawNumber s.params.numFormat s.draws
  | _ => .word (Config.unspecifiedWord s.draws)

/-- A register that is defined is answered with its value. -/
theorem State.readCsr_of_defined {s : State} {r : CsrName} (h : s.cfg.cfgValid = true ∨ r.ofCfg = false) :
    s.readCsr r = s.respond .ok (s.csrDefined r) := by
  obtain h | h := h
  · cases r <;> simp [State.readCsr, State.answerCfgNat, State.answerCfgRat, State.answerNat, State.csrDefined, h]
  · cases r <;> first | rfl | simp [CsrName.ofCfg] at h

/-- A register that is unspecified is answered with the next draw. -/
theorem State.readCsr_of_unspecified {s : State} {r : CsrName} (h : s.cfg.cfgValid = false) (hr : r.ofCfg = true) :
    s.readCsr r = { s with draws := s.draws + 1 }.respond .ok (s.csrDrawn r) := by
  cases r <;> first
    | simp [CsrName.ofCfg] at hr; done
    | simp [State.readCsr, State.answerCfgNat, State.answerCfgRat, State.answerUnspecifiedWord, State.csrDrawn, h]

/-! The STATUS word. -/

/-- The STATUS word as a number: the flags, the tag and the bit count at their places (10_state.md R30). -/
theorem statusWord_toNat (cv dv ma : Bool) (tag : FdecTag) {k : Nat} (h : k < 8) :
    (statusWord cv dv ma tag k).toNat =
      cv.toNat + 2 * dv.toNat + 4 * ma.toNat + 8 * tag.code.toNat + 64 * k := by
  have hb : ∀ (w n : Nat) (x : BitVec w) (y : BitVec n), (x ++ y).toNat = x.toNat * 2 ^ n + y.toNat := fun w n x y => by
    rw [BitVec.toNat_append, Nat.shiftLeft_eq, Nat.mul_comm, Nat.two_pow_add_eq_or_of_lt y.isLt]
  unfold statusWord
  simp only [hb, BitVec.toNat_ofNat, BitVec.toNat_ofBool]
  omega

end Sys2Proof.Machine

namespace Sys2Proof.Proofs
open Sys2Proof.Machine

/-- Settles O9, by evaluation; only the ranges of `EPS_RX` need arithmetic. -/
theorem resetStateIsSound : Obligations.ResetStateIsSound := by
  unfold Obligations.ResetStateIsSound
  refine ⟨?_, rfl, rfl, rfl, rfl, rfl, rfl, rfl, rfl, rfl, rfl, rfl, rfl, rfl, rfl⟩
  exact {
    params := ⟨by decide, by decide⟩
    cfg := ⟨nofun, nofun⟩
    mod := ⟨fun _ => ⟨rfl, rfl, rfl, rfl, rfl⟩, nofun, nofun, nofun, nofun, nofun⟩
    dem := ⟨by decide, by decide, rfl, nofun, nofun, trivial, nofun⟩
    fdec := ⟨fun _ => by simp [HasPreamble, State.reset, FdecRegs.reset, Config.preambleLen], by decide, fun _ => rfl, fun _ => ⟨rfl, rfl⟩, nofun, nofun, by decide⟩
    feed := trivial
    rxBytes := rfl }

/-- Settles O13: the next state is `coreReset` with its `Ok`, field by field. -/
theorem coreResetCompletes : Obligations.CoreResetCompletes := by
  unfold Obligations.CoreResetCompletes
  intro s
  exact ⟨s.coreReset.ok .none, rfl, rfl, rfl, rfl, rfl, rfl, rfl, rfl, rfl, rfl, rfl, rfl, rfl, rfl, rfl, rfl, ⟨rfl, rfl, rfl⟩, rfl, rfl,
    rfl, rfl, rfl, rfl, rfl, rfl, rfl, rfl, rfl⟩

/-- Settles O14: with all conditions true the load writes everything and DEM is initialised. -/
theorem cfgLoadCompletes : Obligations.CfgLoadCompletes := by
  unfold Obligations.CfgLoadCompletes
  rintro s operands c rfl hmod hdem hall
  simp only [exec_cfgLoad, execCfgLoad, State.cfgBusy_of_idle hmod hdem, s.cfg.load_of_conditions hall]
  rfl

/-- Settles O15: the load stops at the first condition that fails, and `rx_win` is fitted to the `sps` it leaves. -/
theorem cfgLoadReportsFirstFailedCheck : Obligations.CfgLoadReportsFirstFailedCheck := by
  unfold Obligations.CfgLoadReportsFirstFailedCheck
  rintro s operands c k rfl hmod hdem h1 h11 hup hk
  obtain ⟨check, rfl, hload⟩ := s.cfg.load_of_firstFailed ⟨h1, hup, hk⟩ h11
  obtain ⟨hconf, hdv, hcv, hsym, hsym', htr, htr'⟩ :=
    s.cfg.writtenBefore_spec (receiveConfig s.params.numFormat operands) check.number
  obtain ⟨hlen, hd, hkept, hsame⟩ := s.dem.fit_spec (s.cfg.writtenBefore (receiveConfig s.params.numFormat operands) check.number).sps
  refine ⟨_, _, check, ?_, rfl, Status.cause_configError_toNat check, hconf, hdv, hcv, hsym, hsym', htr, htr', hd, hlen, hkept, hsame⟩
  simp only [exec_cfgLoad, execCfgLoad, State.cfgBusy_of_idle hmod hdem, hload]
  rfl

/-- Settles O16: either unit at work makes the configuration unit busy. -/
theorem cfgLoadRefusedWhileBusy : Obligations.CfgLoadRefusedWhileBusy := by
  unfold Obligations.CfgLoadRefusedWhileBusy
  intro s c h
  rw [exec_cfgLoad, execCfgLoad, if_pos ((State.cfgBusy_iff s).mpr h)]
  rfl

/-- Settles O17, by the floor that `round` is written with. -/
theorem roundIsNearestTieUp : Obligations.RoundIsNearestTieUp := by
  unfold Obligations.RoundIsNearestTieUp
  intro x n hx
  exact roundHalfUp_eq_iff hx

/-- Settles O18, by the bounds of the binary logarithm. -/
theorem fftSizeIsLeastPowerOfTwo : Obligations.FftSizeIsLeastPowerOfTwo := by
  unfold Obligations.FftSizeIsLeastPowerOfTwo
  intro n hn
  exact ⟨pow2AtLeast_eq_two_pow n, le_pow2AtLeast n, pow2AtLeast_lt hn, fun k => pow2AtLeast_le_two_pow⟩

/-- Settles O19: both tones lie below half the sample rate by condition 2. -/
theorem binsStayBelowNyquist : Obligations.BinsStayBelowNyquist := by
  unfold Obligations.BinsStayBelowNyquist
  intro nMax c h
  obtain ⟨⟨h0, h0'⟩, h1, h1'⟩ : (0 < c.freq0 ∧ c.freq0 < c.sampleRate / 2) ∧ (0 < c.freq1 ∧ c.freq1 < c.sampleRate / 2) :=
    h 2 (by decide) (by decide)
  exact ⟨two_mul_targetBin_le _ h0 h0', two_mul_targetBin_le _ h1 h1'⟩

/-- Settles O20: a number in the table names one register, whose answer is read off; any other number names none. -/
theorem csrReadCompletes : Obligations.CsrReadCompletes := by
  unfold Obligations.CsrReadCompletes
  intro s n
  have hrat : s.params.numFormat = .rational → ∀ q k, sendNumber s.params.numFormat q = .rational q ∧
      drawNumber s.params.numFormat k = .rational (Config.unspecifiedRat k) := fun h q k => by rw [h]; exact ⟨rfl, rfl⟩
  have hfit : ∀ k, k < 2 ^ 32 → (word32OfNat k).toNat = k := fun k => word32OfNat_toNat
  cases hn : csrOfNumber n with
  | none =>
    have hout : n ∉ csrTable.map Prod.fst := csrOfNumber_eq_none hn
    refine ⟨s.draws, .word 0#32, exec_csrRead_of_none hn s, ?_⟩
    simp [csrTable] at hout
    simp [hout]
    exact ⟨hrat, hfit⟩
  | some r =>
    have hmem := (csrOfNumber_eq_some_iff n r).mp hn
    by_cases hdef : s.cfg.cfgValid = true ∨ r.ofCfg = false
    · refine ⟨s.draws, s.csrDefined r, ?_, ?_⟩
      · rw [exec_csrRead_of_some hn, State.readCsr_of_defined hdef]
        rfl
      · cases r <;> simp [csrTable] at hmem <;> subst hmem <;> simp [CsrName.ofCfg] at hdef <;>
          simp [State.csrDefined, State.status, *] <;> exact ⟨hrat, hfit⟩
    · obtain ⟨hv, hcfg⟩ : s.cfg.cfgValid = false ∧ r.ofCfg = true := by simpa using hdef
      refine ⟨s.draws + 1, s.csrDrawn r, ?_, ?_⟩
      · rw [exec_csrRead_of_some hn, State.readCsr_of_unspecified hv hcfg]
        rfl
      · cases r <;> simp [csrTable] at hmem <;> subst hmem <;> simp [CsrName.ofCfg] at hcfg <;>
          simp [State.csrDrawn, hv] <;> exact ⟨hrat, hfit⟩

/-- Settles O21: every field is read off the number that the word is. -/
theorem statusWordLayout : Obligations.StatusWordLayout := by
  unfold Obligations.StatusWordLayout
  intro cv dv ma tag k hk
  have hcode : tag.code.toNat < 5 := by cases tag <;> decide
  have hword := statusWord_toNat cv dv ma tag hk
  have h0 := Bool.toNat_lt cv
  have h1 := Bool.toNat_lt dv
  have h2 := Bool.toNat_lt ma
  have hbit : ∀ (b : Bool) (i : Nat), (statusWord cv dv ma tag k).toNat / 2 ^ i % 2 = b.toNat →
      (statusWord cv dv ma tag k).getLsbD i = b := fun b i h => by
    rw [BitVec.getLsbD, Nat.testBit_eq_decide_div_mod_eq, h]
    cases b <;> rfl
  have htag : ((statusWord cv dv ma tag k).extractLsb' 3 3).toNat = tag.code.toNat := by
    rw [BitVec.extractLsb'_toNat, hword, Nat.shiftRight_eq_div_pow]
    omega
  refine ⟨hbit cv 0 (by omega), hbit dv 1 (by omega), hbit ma 2 (by omega), ?_, ?_, by omega⟩
  · rw [htag]
    cases tag <;> rfl
  · rw [BitVec.extractLsb'_toNat, hword, Nat.shiftRight_eq_div_pow]
    omega

end Sys2Proof.Proofs
end

-- ==== Proofs: 10_state.md, what an operation and a step can write ====
section
/-!
SUPPORT. Proofs of the statements on 10_state.md R20 and R21: who writes the parameters and the configuration unit, and that the two sides
share no state.
-/

-- One declaration after another: fewer threads, and so less memory, at a time.
set_option Elab.async false

namespace Sys2Proof.Machine

/-! What an operation can write. -/

/-- From `s` to `t` only answers have been given, numbers drawn and `seq_ctr` advanced. -/
def AnswerOnly (s t : State) : Prop := t = { s with rspOut := t.rspOut, draws := t.draws, seqCtr := t.seqCtr }

theorem State.answerFrame_eq (s : State) (p : List Byte) : ∃ st v, s.answerFrame p = s.respond st v := by
  unfold State.answerFrame
  split
  · exact ⟨_, _, rfl⟩
  · exact ⟨_, _, rfl⟩

theorem State.newMessage_answerOnly (s : State) (k : Kind) (sel : Bool) (seq : Word32) (payload : List Byte) :
    AnswerOnly s (s.newMessage k sel seq payload) := by
  unfold State.newMessage
  split
  · rfl
  · split <;> rfl

theorem State.readCsr_answerOnly (s : State) (r : CsrName) : AnswerOnly s (s.readCsr r) := by
  by_cases hdef : s.cfg.cfgValid = true ∨ r.ofCfg = false
  · rw [State.readCsr_of_defined hdef]; rfl
  · obtain ⟨hv, hcfg⟩ : s.cfg.cfgValid = false ∧ r.ofCfg = true := by simpa using hdef
    rw [State.readCsr_of_unspecified hv hcfg]; rfl

/-- The operations of the transmit side (10_state.md R21). -/
def transmits : Instr → Bool
  | .fencSer _ | .fencWrap _ | .fencEncode _ | .modEncode _ | .txSend _ => true
  | _ => false

/-- The operations of the receive side (10_state.md R21). -/
def receives : Instr → Bool
  | .demInit | .detClassify _ | .demDecode _ | .demPush _ | .fdecInit | .fdecFeed _ | .fdecDeser _ | .rxRecv _ => true
  | _ => false

/-- Operations of the transmit side write MOD, `pcm_out` and answers. -/
theorem exec_transmitOnly {i : Instr} {s t : State} (hi : transmits i = true) (h : exec i s = .next t) : TransmitOnly s t := by
  cases i <;> simp only [transmits, Bool.false_eq_true] at hi
  case fencSer m => cases h; rfl
  case fencWrap p =>
    cases h
    obtain ⟨st, v, he⟩ := s.answerFrame_eq p
    rw [he]; rfl
  case fencEncode m =>
    cases h
    obtain ⟨st, v, he⟩ := s.answerFrame_eq (serText s.params.textFormat m)
    rw [he]; rfl
  case modEncode bytes =>
    simp only [exec, execModEncode] at h
    split at h
    · cases h; exact s.refuseMod_transmitOnly _
    · split at h <;> cases h
      · exact s.refuseMod_transmitOnly _
      · exact s.startEncode_transmitOnly bytes
  case txSend m =>
    simp only [exec, execTxSend] at h
    split at h
    · cases h; exact s.refuseMod_transmitOnly _
    · split at h
      · cases h; exact s.refuseMod_transmitOnly _
      · split at h <;> cases h
        · exact s.startEncode_transmitOnly _
        · rfl

/-- Operations of the receive side wait, or write the receive side and answers. -/
theorem exec_receiveOnly {i : Instr} {s t : State} (hi : receives i = true) (h : exec i s = .next t) :
    (s.mustWait i = true ∧ t = s.requeue i) ∨ (s.mustWait i = false ∧ ReceiveOnly s t) := by
  cases hw : s.mustWait i with
  | true =>
    rw [exec_of_mustWait hw] at h
    cases h
    exact .inl ⟨rfl, rfl⟩
  | false =>
    refine .inr ⟨rfl, ?_⟩
    cases i <;> simp only [receives, Bool.false_eq_true] at hi <;> simp only [State.mustWait, opcodeOf, State.opMustWait] at hw
    case demInit =>
      simp only [exec, execDemInit, hw] at h
      split at h
      · contradiction
      · split at h <;> cases h <;> rfl
    case detClassify w =>
      simp only [exec, execDetClassify, hw] at h
      split at h
      · contradiction
      · split at h
        · cases h; rfl
        · split at h <;> cases h
          · rfl
          · exact s.startDem_receiveOnly _ _
    case demDecode w =>
      simp only [exec, execDemDecode, hw] at h
      split at h
      · contradiction
      · split at h <;> cases h
        · rfl
        · exact ReceiveOnly.trans (t := { s with dem := s.dem.init s.cfg.sps }) rfl (State.startDem_receiveOnly _ _ _)
    case demPush w =>
      simp only [exec, execDemPush, hw] at h
      split at h
      · contradiction
      · split at h <;> cases h
        · rfl
        · exact s.startDem_receiveOnly _ _
    case fdecInit =>
      simp only [exec, execFdecInit, hw] at h
      split at h
      · contradiction
      · cases h; rfl
    case fdecFeed chunk =>
      simp only [exec, execFdecFeed, hw] at h
      split at h
      · contradiction
      · cases h; exact s.startFeed_receiveOnly chunk
    case fdecDeser text =>
      simp only [exec, execFdecDeser, hw] at h
      split at h
      · contradiction
      · split at h <;> cases h <;> rfl
    case rxRecv n =>
      simp only [exec, execRxRecv, hw] at h
      split at h
      · contradiction
      · split at h <;> cases h
        · rfl
        · exact s.startRecv_receiveOnly n

/-- Every other operation but CFG.LOAD and CORE.RESET only answers. -/
theorem exec_answerOnly {i : Instr} {s t : State} (ht : transmits i = false) (hr : receives i = false) (hl : ∀ c, i ≠ .cfgLoad c)
    (hc : i ≠ .coreReset) (h : exec i s = .next t) : AnswerOnly s t := by
  cases i <;> simp only [transmits, receives, Bool.true_eq_false] at ht hr
  case coreReset => exact absurd rfl hc
  case cfgLoad c => exact absurd rfl (hl c)
  case csrRead n =>
    simp only [exec, execCsrRead] at h
    split at h <;> cases h
    · exact s.readCsr_answerOnly _
    · rfl
  case msgNewText => cases h; exact s.newMessage_answerOnly _ _ _ _
  case msgNewFile => cases h; exact s.newMessage_answerOnly _ _ _ _
  case msgNewAck => cases h; exact s.newMessage_answerOnly _ _ _ _
  case msgNewPing => cases h; exact s.newMessage_answerOnly _ _ _ _
  all_goals cases h; rfl

/-- CFG.LOAD answers, and writes the configuration unit and DEM. -/
theorem exec_cfgLoad_frame {c : ModConfig} {s t : State} (h : exec (.cfgLoad c) s = .next t) :
    t = { s with cfg := t.cfg, dem := t.dem, rspOut := t.rspOut } := by
  simp only [exec, execCfgLoad] at h
  split at h
  · cases h; rfl
  · split at h <;> cases h <;> rfl

/-- Everything an operation can write, by its side. -/
theorem exec_frame {i : Instr} {s t : State} (h : exec i s = .next t) :
    (i = .coreReset ∧ t = s.coreReset.ok .none) ∨
    ((∃ c, i = .cfgLoad c) ∧ t = { s with cfg := t.cfg, dem := t.dem, rspOut := t.rspOut }) ∨
    (s.mustWait i = true ∧ t = s.requeue i) ∨
    ReceiveOnly s t ∨ TransmitOnly s t ∨ AnswerOnly s t := by
  by_cases hc : i = .coreReset
  · subst hc; cases h; exact .inl ⟨rfl, rfl⟩
  by_cases hl : ∃ c, i = .cfgLoad c
  · obtain ⟨c, rfl⟩ := hl
    exact .inr (.inl ⟨⟨c, rfl⟩, exec_cfgLoad_frame h⟩)
  cases ht : transmits i with
  | true => exact .inr (.inr (.inr (.inr (.inl (exec_transmitOnly ht h)))))
  | false =>
    cases hr : receives i with
    | true =>
      obtain hw | ⟨-, hro⟩ := exec_receiveOnly hr h
      · exact .inr (.inr (.inl hw))
      · exact .inr (.inr (.inr (.inl hro)))
    | false => exact .inr (.inr (.inr (.inr (.inr (exec_answerOnly ht hr (fun c hi => hl ⟨c, hi⟩) hc h)))))

/-- No operation writes a parameter (log 2). -/
theorem exec_params {i : Instr} {s t : State} (h : exec i s = .next t) : t.params = s.params := by
  obtain ⟨-, h⟩ | ⟨-, h⟩ | ⟨-, h⟩ | h | h | h := exec_frame h <;> rw [h] <;> rfl

/-- Only CFG.LOAD and CORE.RESET write the configuration unit (20_memory.md R80). -/
theorem exec_cfg {i : Instr} {s t : State} (h : exec i s = .next t) (hl : ∀ c, i ≠ .cfgLoad c) (hc : i ≠ .coreReset) :
    t.cfg = s.cfg := by
  obtain ⟨hi, -⟩ | ⟨⟨c, hi⟩, -⟩ | ⟨-, h⟩ | h | h | h := exec_frame h
  · exact absurd hi hc
  · exact absurd hi (hl c)
  · rw [h]; rfl
  all_goals rw [h]

/-- Refusing a request that is not an operation writes only answers, or keeps one for MOD. -/
theorem State.refuseDecode_transmitOnly (s : State) (e : DecodeError) : TransmitOnly s (s.refuseDecode e) := by
  cases e with
  | illegalOp code => rfl
  | badOperand op =>
    simp only [State.refuseDecode, State.refuseFor]
    split
    · exact s.refuseMod_transmitOnly _
    · rfl

/-- What serving a request can be: running the instruction it decodes to, or a refusal. -/
theorem State.serve_cases {s t : State} {r : Request} (h : s.serve r = .next t) :
    (∃ i, decode r = .ok i ∧ exec i s = .next t) ∨ (∃ e, decode r = .error e ∧ t = s.refuseDecode e) := by
  unfold State.serve at h
  split at h
  · next i hi => exact .inl ⟨i, hi, h⟩
  · next e he => cases h; exact .inr ⟨e, he, rfl⟩

theorem State.serve_params {s t : State} {r : Request} (h : s.serve r = .next t) : t.params = s.params := by
  obtain ⟨i, -, h⟩ | ⟨e, -, rfl⟩ := State.serve_cases h
  · exact exec_params h
  · rw [s.refuseDecode_transmitOnly e]

/-- Serving changes the configuration unit only by a CFG.LOAD or CORE.RESET, which leave `cmd_in` as it is. -/
theorem State.serve_cfg {s t : State} {r : Request} (h : s.serve r = .next t) (hne : t.cfg ≠ s.cfg) :
    t.cmdIn = s.cmdIn ∧ (decode r = .ok .coreReset ∨ ∃ c, decode r = .ok (.cfgLoad c)) := by
  obtain ⟨i, hi, h⟩ | ⟨e, -, rfl⟩ := State.serve_cases h
  · by_cases hc : i = .coreReset
    · subst hc; cases h; exact ⟨rfl, .inl hi⟩
    by_cases hl : ∃ c, i = .cfgLoad c
    · obtain ⟨c, rfl⟩ := hl
      refine ⟨?_, .inr ⟨c, hi⟩⟩
      rw [exec_cfgLoad_frame h]
    · exact absurd (exec_cfg h (fun c hi => hl ⟨c, hi⟩) hc) hne
  · exact absurd (by rw [s.refuseDecode_transmitOnly e]) hne

theorem decode_of_isCoreReset {r : Request} (h : isCoreReset r = true) : decode r = .ok .coreReset := by
  rw [decode_eq_ok_iff]
  exact ⟨.coreReset, by simpa [isCoreReset] using h, rfl, rfl⟩

/-- Taking a request writes no parameter. -/
theorem State.serveNext_params {s t : State} (h : s.serveNext = some (.next t)) : t.params = s.params := by
  obtain ⟨r, rest, -, -, ho⟩ | ⟨r, pre, q, post, -, -, -, -, ho⟩ := State.serveNext_cases h
  · exact (State.serve_params ho.symm).trans rfl
  · exact (exec_params ho.symm).trans rfl

/-- Taking a request that changes the configuration unit takes a CFG.LOAD from the front or a CORE.RESET from anywhere. -/
theorem State.serveNext_cfg {s t : State} (h : s.serveNext = some (.next t)) (hne : t.cfg ≠ s.cfg) :
    ∃ pre r post, s.cmdIn = pre ++ r :: post ∧ t.cmdIn = pre ++ post ∧
      (decode r = .ok .coreReset ∨ (pre = [] ∧ ∃ c, decode r = .ok (.cfgLoad c))) := by
  obtain ⟨r, rest, hc, -, ho⟩ | ⟨r, pre, q, post, hc, -, -, hq, ho⟩ := State.serveNext_cases h
  · obtain ⟨hcmd, hd⟩ := State.serve_cfg (s := { s with cmdIn := rest }) ho.symm hne
    exact ⟨[], r, rest, hc, hcmd, hd.imp_right fun hl => ⟨rfl, hl⟩⟩
  · cases ho
    exact ⟨r :: pre, q, post, hc, rfl, .inl (decode_of_isCoreReset hq)⟩

/-! What the receive side depends on. -/

/-- The state with everything blotted out that the receive side neither reads nor writes; the answers too, which it only adds to. -/
def State.receiveView (s : State) : State :=
  { s with
    mod := ModRegs.reset, seqCtr := 0#32, cmdIn := [], rspOut := [], pcmOut := [], timeIn := 0#64, draws := 0, sched := [] }

/-- Work on the receive side: what it does there does not depend on the rest of the state. -/
def ReceiveLocal (f : State → State) : Prop := ∀ s, (f s).receiveView = (f s.receiveView).receiveView

theorem ReceiveLocal.comp {f g : State → State} (hf : ReceiveLocal f) (hg : ReceiveLocal g) : ReceiveLocal (fun s => g (f s)) := by
  intro s
  rw [hg, hf, ← hg]

theorem ReceiveLocal.of_view_eq {f : State → State} (hf : ReceiveLocal f) {s s' : State} (h : s.receiveView = s'.receiveView) :
    (f s).receiveView = (f s').receiveView := by
  rw [hf s, hf s', h]

theorem State.demComplete_local : ReceiveLocal State.demComplete := by
  intro s
  unfold State.demComplete
  simp only [State.receiveView]
  split <;> rfl

theorem State.demConsume_local : ReceiveLocal State.demConsume := by
  intro s
  unfold State.demConsume
  rw [show s.receiveView.dem = s.dem from rfl]
  split
  · exact State.demComplete_local.of_view_eq rfl
  · exact State.demComplete_local.of_view_eq rfl
  · rfl
  · rfl

theorem State.demConsumeAll_local (n : Nat) : ReceiveLocal (State.demConsumeAll n) := by
  induction n with
  | zero => intro s; rfl
  | succ n ih => exact State.demConsume_local.comp ih

theorem State.recvSample_view (s : State) (x : Sample) :
    (s.recvSample x).1 = (s.receiveView.recvSample x).1 ∧
      (s.recvSample x).2.receiveView = (s.receiveView.recvSample x).2.receiveView := by
  simp only [State.recvSample, State.drainRxBytes, State.postEvents_eq, State.receiveView]
  exact ⟨trivial, trivial⟩

theorem State.recvConsume_local : ReceiveLocal State.recvConsume := by
  intro s
  unfold State.recvConsume
  rw [show s.receiveView.dem = s.dem from rfl, show s.receiveView.pcmIn = s.pcmIn from rfl]
  split
  · next left sent x rest _ _ =>
    obtain ⟨h1, h2⟩ := ({ s with pcmIn := rest } : State).recvSample_view x
    refine State.demComplete_local.of_view_eq ?_
    have hop : ∀ (a b : Nat × State), a.1 = b.1 → a.2.receiveView = b.2.receiveView →
        ({ a.2 with dem := { a.2.dem with op := some (.recv left (sent + a.1)) } } : State).receiveView =
          ({ b.2 with dem := { b.2.dem with op := some (.recv left (sent + b.1)) } } : State).receiveView := fun a b hn hv => by
      rw [hn]
      exact congrArg (fun v : State => { v with dem := { v.dem with op := some (.recv left (sent + b.1)) } }) hv
    exact hop _ _ h1 h2
  · rfl

theorem State.recvConsumeAll_local (n : Nat) : ReceiveLocal (State.recvConsumeAll n) := by
  induction n with
  | zero => intro s; rfl
  | succ n ih => exact State.recvConsume_local.comp ih

theorem State.feedComplete_local : ReceiveLocal State.feedComplete := by
  intro s
  unfold State.feedComplete
  simp only [State.receiveView]
  split <;> rfl

theorem State.feedConsume_local : ReceiveLocal State.feedConsume := by
  intro s
  unfold State.feedConsume
  rw [show s.receiveView.fdec = s.fdec from rfl]
  split
  · refine State.feedComplete_local.of_view_eq ?_
    simp only [State.postEvents_eq, State.receiveView]
  · rfl

theorem State.feedConsumeAll_local (n : Nat) : ReceiveLocal (State.feedConsumeAll n) := by
  induction n with
  | zero => intro s; rfl
  | succ n ih => exact State.feedConsume_local.comp ih

theorem State.demFinish_local : ReceiveLocal State.demFinish := by
  intro s
  unfold State.demFinish
  rw [show s.receiveView.dem = s.dem from rfl, show s.receiveView.pcmIn = s.pcmIn from rfl]
  split
  · exact State.demConsumeAll_local _ s
  · exact State.demConsumeAll_local _ s
  · exact State.demConsumeAll_local _ s
  · exact State.recvConsumeAll_local _ s
  · rfl

theorem State.feedFinish_local : ReceiveLocal State.feedFinish := by
  intro s
  unfold State.feedFinish
  rw [show s.receiveView.fdec = s.fdec from rfl]
  split
  · exact State.feedConsumeAll_local _ s
  · rfl

/-! What the transmit side depends on. -/

/-- MOD going on depends on the parameters, the configuration and MOD. -/
theorem State.finishAll_mod (s : State) :
    s.finishAll.mod = s.modFinish.mod ∧ s.finishAll.pcmOut = s.modFinish.pcmOut := by
  have hdem := s.modFinish.demFinish_receiveOnly
  have hfeed := s.modFinish.demFinish.feedFinish_receiveOnly
  rw [State.finishAll, hfeed]
  dsimp only
  rw [hdem]
  exact ⟨rfl, rfl⟩

/-- The receive side after all units have gone on depends on the receive side. -/
theorem State.finishAll_view (s : State) : s.finishAll.receiveView = (s.receiveView.demFinish.feedFinish).receiveView := by
  have hmod : s.modFinish.receiveView = s.receiveView := by
    rw [State.modFinish, s.modAdvance_transmitOnly]
    rfl
  have h := State.demFinish_local.comp State.feedFinish_local
  calc s.finishAll.receiveView = (s.modFinish.receiveView.demFinish.feedFinish).receiveView := h s.modFinish
    _ = (s.receiveView.demFinish.feedFinish).receiveView := by rw [hmod]

/-- With no turn scheduled and no request that can be taken, a step lets every unit go on. -/
theorem step_of_all_wait {s : State} (hs : s.sched = [])
    (h : ∀ r rest, s.cmdIn = r :: rest → s.ready r = false ∧ ∀ q ∈ rest, q.code ≠ 0x00#8) : step s = .next s.finishAll := by
  cases hc : s.cmdIn with
  | nil => exact step_of_no_request hs hc
  | cons r rest =>
    obtain ⟨hr, hq⟩ := h r rest hc
    simp [step, hs, State.serveNext_of_waits hc hr fun q hm => (isCoreReset_eq_false_iff q).mpr (hq q hm)]

end Sys2Proof.Machine

namespace Sys2Proof.Proofs
open Sys2Proof.Machine

/-- Settles O11: a step takes a request or writes neither, and a request that is served writes them only by CFG.LOAD and CORE.RESET. -/
theorem onlyLoadAndResetWriteConfig : Obligations.OnlyLoadAndResetWriteConfig := by
  unfold Obligations.OnlyLoadAndResetWriteConfig
  refine ⟨fun s t h => ?_, fun s t h hne => ?_, fun i s t h hl hc => exec_cfg h hl hc⟩
  · obtain ⟨ts, -, hn⟩ | ⟨hp, -⟩ := step_cases h
    · exact (State.serveNext_params hn).trans rfl
    · exact hp
  · obtain ⟨ts, hs, hn⟩ | ⟨-, hcfg, -⟩ := step_cases h
    · exact ⟨hs.imp And.left fun h => ⟨ts, h⟩, State.serveNext_cfg (s := { s with sched := ts }) hn hne⟩
    · exact absurd hcfg hne

/-- Settles O12: each operation and each turn writes its own side, and where the units only go on, each side depends on itself. -/
theorem pipelinesShareNoState : Obligations.PipelinesShareNoState := by
  unfold Obligations.PipelinesShareNoState
  refine ⟨fun i s t h hi => ?_, fun i s t h hi => ?_, fun s t ts h => ⟨fun hs => ?_, fun hs => ?_⟩, ?_⟩
  · have ht : transmits i = true := by obtain ⟨_, rfl⟩ | ⟨_, rfl⟩ | ⟨_, rfl⟩ | ⟨_, rfl⟩ | ⟨_, rfl⟩ := hi <;> rfl
    rw [exec_transmitOnly ht h]
    simp
  · have hr : receives i = true := by
      obtain rfl | ⟨_, rfl⟩ | ⟨_, rfl⟩ | ⟨_, rfl⟩ | rfl | ⟨_, rfl⟩ | ⟨_, rfl⟩ | ⟨_, rfl⟩ := hi <;> rfl
    obtain ⟨-, rfl⟩ | ⟨-, hro⟩ := exec_receiveOnly hr h
    · simp
    · rw [hro]
      simp
  · simp only [step, hs, State.turn] at h
    cases h
    rw [State.modStep, State.modAdvance_transmitOnly]
    simp
  · obtain hs | hs := hs <;> simp only [step, hs, State.turn] at h <;> cases h
    · rw [State.demStep_receiveOnly]
      simp
    · rw [State.feedConsume_receiveOnly]
      simp
  · intro s s' t t' h h' hp hcfg hs hs' hw hw'
    rw [step_of_all_wait hs hw] at h
    rw [step_of_all_wait hs' hw'] at h'
    cases h
    cases h'
    refine ⟨fun hmod hpcm => ?_, fun hdem hfdec hrx hin hmsg hdbg => ?_⟩
    · rw [s.finishAll_mod.1, s.finishAll_mod.2, s'.finishAll_mod.1, s'.finishAll_mod.2]
      simp only [State.modFinish, State.modAdvance_eq, hp, hcfg, hmod, hpcm, and_self]
    · have hview : s.receiveView = s'.receiveView := by
        simp only [State.receiveView, hp, hcfg, hdem, hfdec, hrx, hin, hmsg, hdbg]
      have hfin : s.finishAll.receiveView = s'.finishAll.receiveView := by rw [s.finishAll_view, s'.finishAll_view, hview]
      simp only [State.receiveView, State.mk.injEq] at hfin
      tauto

end Sys2Proof.Proofs
end

-- ==== Proofs: 44_frame_decoder.md, one byte at a time ====
section
/-!
SUPPORT. Proofs of the statements on one `feed_byte` of the frame decoder (44_frame_decoder.md R241 to R255, R260): what it does state by
state, that its rules come to an end, that it keeps the decoder sound, and that it emits only Messages that verify.
-/

-- One declaration after another: fewer threads, and so less memory, at a time.
set_option Elab.async false

namespace Sys2Proof.Machine

/-! The rules come to an end (R255): every rule that goes on consumes bytes or moves to a tag of less weight. -/

/-- How many rules may still run without a byte being consumed. -/
def FdecTag.weight : FdecTag → Nat
  | .wp => 0
  | .we => 1
  | .ws | .rl | .rm => 2

/-- Two for every byte held, and the weight of the tag. -/
def FdecRegs.measure (r : FdecRegs) : Nat := 2 * r.buf.length + r.tag.weight

theorem findPreamble_length {buf : List Byte} {k : Nat} (h : findPreamble buf = some k) : k + 8 ≤ buf.length := by
  have hlen := congrArg List.length (findPreamble_eq_some h).1
  simp only [Config.preambleLen, List.length_take, List.length_drop, List.length_replicate] at hlen
  omega

/-- A rule after which the next one runs makes the measure smaller. -/
theorem fdecRule_measure_lt {f : TextFormat} {r : FdecRegs} (h : (fdecRule f r).again = true) :
    (fdecRule f r).regs.measure < r.measure := by
  obtain ⟨tag, buf, len, pay, op⟩ := r
  cases tag <;> simp only [fdecRule] at h ⊢
  case wp =>
    unfold ruleWp at h ⊢
    split at h
    · next k hk =>
      have hle : k + 8 ≤ buf.length := findPreamble_length hk
      simp [FdecRegs.measure, FdecTag.weight, Config.preambleLen]
      omega
    · simp [ruleWait] at h
  case ws =>
    unfold ruleWs at h ⊢
    split at h
    · next a b rest hbuf =>
      obtain rfl : buf = a :: b :: rest := hbuf
      split <;> simp [FdecRegs.measure, FdecTag.weight]
    · simp [ruleWait] at h
  case rl =>
    unfold ruleRl at h ⊢
    split at h
    · next a b rest hbuf =>
      obtain rfl : buf = a :: b :: rest := hbuf
      dsimp only
      split <;> simp [FdecRegs.measure, FdecTag.weight]
    · simp [ruleWait] at h
  case rm =>
    unfold ruleRm at h ⊢
    dsimp only at h ⊢
    split at h
    · next hlen =>
      rw [if_pos hlen]
      simp [FdecRegs.measure, FdecTag.weight]
    · simp [ruleWait] at h
  case we =>
    unfold ruleWe at h ⊢
    split at h
    · next a b rest hbuf =>
      obtain rfl : buf = a :: b :: rest := hbuf
      split
      · split <;> simp [FdecRegs.measure, FdecTag.weight] <;> omega
      · simp [FdecRegs.measure, FdecTag.weight]
    · simp [ruleWait] at h

/-- More rules than the measure make no difference. -/
theorem fdecRules_stable (f : TextFormat) {n m : Nat} {r : FdecRegs} (hn : r.measure < n) (hm : r.measure < m) :
    fdecRules f n r = fdecRules f m r := by
  induction n generalizing m r with
  | zero => omega
  | succ n ih =>
    obtain ⟨m, rfl⟩ : ∃ k, m = k + 1 := ⟨m - 1, by omega⟩
    simp only [fdecRules]
    split
    · next hagain =>
      have hlt := fdecRule_measure_lt hagain
      rw [ih (m := m) (by omega) (by omega)]
    · rfl

theorem FdecRegs.measure_lt_rulesEnough (r : FdecRegs) : r.measure < r.rulesEnough := by
  have : r.tag.weight ≤ 2 := by cases r.tag <;> decide
  unfold FdecRegs.measure FdecRegs.rulesEnough
  omega

/-! One byte without the overflow (R241, R242): the one rule that runs waits, or the second one does. -/

theorem FdecRegs.append_of_le {p : Params} {r : FdecRegs} (h : r.buf.length + 1 ≤ p.cap) (b : Byte) :
    r.append p b = ({ r with buf := r.buf ++ [b] }, []) := by
  simp only [FdecRegs.append, List.length_append, List.length_singleton]
  rw [if_neg (by omega)]

/-- Of how many rules may run nothing depends once they are enough. -/
theorem feedByte_eq_fdecRules (p : Params) (r : FdecRegs) (b : Byte) {n : Nat} (hn : (r.append p b).1.measure < n) :
    feedByte p r b = ((fdecRules p.textFormat n (r.append p b).1).1, (fdecRules p.textFormat n (r.append p b).1).2.1,
      (r.append p b).2 ++ (fdecRules p.textFormat n (r.append p b).1).2.2) := by
  rw [feedByte, fdecRules_stable _ (FdecRegs.measure_lt_rulesEnough _) hn]

theorem feedByte_of_wait {p : Params} {r : FdecRegs} {b : Byte}
    (h : fdecRule p.textFormat (r.append p b).1 = ruleWait (r.append p b).1) :
    feedByte p r b = ((r.append p b).1, [], (r.append p b).2) := by
  rw [feedByte_eq_fdecRules p r b (Nat.lt_succ_self _)]
  simp [fdecRules, h, ruleWait]

theorem feedByte_of_again {p : Params} {r r' : FdecRegs} {b : Byte} {ms : List Message} {es : List Event}
    (h : fdecRule p.textFormat (r.append p b).1 = { regs := r', msgs := ms, events := es, again := true })
    (h' : fdecRule p.textFormat r' = ruleWait r') : feedByte p r b = (r', ms, (r.append p b).2 ++ es) := by
  rw [feedByte_eq_fdecRules p r b (n := (r.append p b).1.measure + 2) (by omega)]
  simp [fdecRules, h, h', ruleWait]

/-- A buffer shorter than a preamble has none in it. -/
theorem findPreamble_of_short {buf : List Byte} (h : buf.length < 8) : findPreamble buf = none := by
  cases hf : findPreamble buf with
  | none => rfl
  | some k =>
    have := findPreamble_length hf
    omega

/-- With no preamble in the buffer, state `WP` waits (R244). -/
theorem fdecRule_wp_wait (f : TextFormat) {buf : List Byte} (h : findPreamble buf = none) (len : Nat) (pay : List Byte)
    (op : Option FeedOp) : fdecRule f ⟨.wp, buf, len, pay, op⟩ = ruleWait ⟨.wp, buf, len, pay, op⟩ := by
  simp [fdecRule, ruleWp, h]

section
variable {p : Params} (hcap : 16 ≤ p.cap) (a b : Byte) (len : Nat) (pay : List Byte) (op : Option FeedOp)
include hcap

/-- A buffer of at most one byte takes another without the overflow. -/
theorem FdecRegs.append_of_short {r : FdecRegs} (h : r.buf.length ≤ 1) : r.append p b = ({ r with buf := r.buf ++ [b] }, []) :=
  FdecRegs.append_of_le (by omega) b

/-- The first byte in states `WS`, `RL` and `WE` is kept (R245, R246, R250). -/
theorem feedByte_first {tag : FdecTag} (ht : tag = .ws ∨ tag = .rl ∨ tag = .we) :
    feedByte p ⟨tag, [], len, pay, op⟩ b = (⟨tag, [b], len, pay, op⟩, [], []) := by
  have happ := FdecRegs.append_of_short hcap b (r := ⟨tag, [], len, pay, op⟩) (by simp)
  rw [feedByte_of_wait, happ]
  · rfl
  · rw [happ]
    obtain rfl | rfl | rfl := ht <;> rfl

/-- The start delimiter (R245). -/
theorem feedByte_ws_delim :
    feedByte p ⟨.ws, [0x7E#8], len, pay, op⟩ 0x7E#8 = (⟨.rl, [], len, pay, op⟩, [], []) := by
  have happ := FdecRegs.append_of_short hcap 0x7E#8 (r := ⟨.ws, [0x7E#8], len, pay, op⟩) (by simp)
  rw [feedByte_of_again (r' := ⟨.rl, [], len, pay, op⟩) (ms := []) (es := []) (by rw [happ]; rfl) rfl, happ]
  rfl

/-- Anything else in place of the start delimiter: back to the search, the two bytes kept (R245, R253). -/
theorem feedByte_ws_mismatch (h : ¬ (a = 0x7E#8 ∧ b = 0x7E#8)) :
    feedByte p ⟨.ws, [a], len, pay, op⟩ b = (⟨.wp, [a, b], 0, [], op⟩, [], [.frameCorrupt .start]) := by
  have happ := FdecRegs.append_of_short hcap b (r := ⟨.ws, [a], len, pay, op⟩) (by simp)
  rw [feedByte_of_again (r' := ⟨.wp, [a, b], 0, [], op⟩) (ms := []) (es := [.frameCorrupt .start])
    (by rw [happ]; exact if_neg h) (fdecRule_wp_wait _ (findPreamble_of_short (by simp)) _ _ _), happ]
  rfl

/-- A legal length (R246, R248). -/
theorem feedByte_rl_legal (h : 1 ≤ lengthOfBytes a b ∧ lengthOfBytes a b ≤ 1024) :
    feedByte p ⟨.rl, [a], len, pay, op⟩ b = (⟨.rm, [], lengthOfBytes a b, [], op⟩, [], []) := by
  have happ := FdecRegs.append_of_short hcap b (r := ⟨.rl, [a], len, pay, op⟩) (by simp)
  have hwait : fdecRule p.textFormat ⟨.rm, [], lengthOfBytes a b, [], op⟩ = ruleWait ⟨.rm, [], lengthOfBytes a b, [], op⟩ := by
    simp only [fdecRule, ruleRm, List.length_nil, Nat.sub_zero, Nat.zero_min, List.take_nil, List.drop_nil, List.append_nil]
    rw [if_neg (by omega)]
  rw [feedByte_of_again (r' := ⟨.rm, [], lengthOfBytes a b, [], op⟩) (ms := []) (es := []) (by rw [happ]; exact if_pos h) hwait, happ]
  rfl

/-- An illegal length (R247, R253). -/
theorem feedByte_rl_illegal (h : ¬ (1 ≤ lengthOfBytes a b ∧ lengthOfBytes a b ≤ 1024)) :
    feedByte p ⟨.rl, [a], len, pay, op⟩ b = (⟨.wp, [a, b], 0, [], op⟩, [], [.frameCorrupt .length]) := by
  have happ := FdecRegs.append_of_short hcap b (r := ⟨.rl, [a], len, pay, op⟩) (by simp)
  rw [feedByte_of_again (r' := ⟨.wp, [a, b], 0, [], op⟩) (ms := []) (es := [.frameCorrupt .length])
    (by rw [happ]; exact if_neg h) (fdecRule_wp_wait _ (findPreamble_of_short (by simp)) _ _ _), happ]
  rfl

/-- A payload byte that is not the last (R249). -/
theorem feedByte_rm_more (h : pay.length + 1 < len) :
    feedByte p ⟨.rm, [], len, pay, op⟩ b = (⟨.rm, [], len, pay ++ [b], op⟩, [], []) := by
  have happ := FdecRegs.append_of_short hcap b (r := ⟨.rm, [], len, pay, op⟩) (by simp)
  have hone : Nat.min 1 (len - pay.length) = 1 := Nat.min_eq_left (by omega)
  have hrule : fdecRule p.textFormat ⟨.rm, [b], len, pay, op⟩ = ruleWait ⟨.rm, [], len, pay ++ [b], op⟩ := by
    simp only [fdecRule, ruleRm, List.length_singleton, hone]
    rw [if_neg (by simp; omega)]
    rfl
  rw [feedByte_eq_fdecRules p _ b (Nat.lt_succ_self _), happ]
  simp [fdecRules, hrule, ruleWait]

/-- The last payload byte (R249). -/
theorem feedByte_rm_last (h : pay.length + 1 = len) :
    feedByte p ⟨.rm, [], len, pay, op⟩ b = (⟨.we, [], len, pay ++ [b], op⟩, [], []) := by
  have happ := FdecRegs.append_of_short hcap b (r := ⟨.rm, [], len, pay, op⟩) (by simp)
  have hone : Nat.min 1 (len - pay.length) = 1 := Nat.min_eq_left (by omega)
  have hrule : fdecRule p.textFormat ⟨.rm, [b], len, pay, op⟩ =
      { regs := ⟨.we, [], len, pay ++ [b], op⟩, msgs := [], events := [], again := true } := by
    simp only [fdecRule, ruleRm, List.length_singleton, hone]
    rw [if_pos (by simp; omega)]
    rfl
  rw [feedByte_of_again (by rw [happ]; exact hrule) rfl, happ]
  rfl

/-- Anything but the end delimiter: back to the search, the two bytes kept (R252, R253). -/
theorem feedByte_we_mismatch (h : ¬ (a = 0x7E#8 ∧ b = 0x7E#8)) :
    feedByte p ⟨.we, [a], len, pay, op⟩ b = (⟨.wp, [a, b], 0, [], op⟩, [], [.frameCorrupt .endDelim]) := by
  have happ := FdecRegs.append_of_short hcap b (r := ⟨.we, [a], len, pay, op⟩) (by simp)
  rw [feedByte_of_again (r' := ⟨.wp, [a, b], 0, [], op⟩) (ms := []) (es := [.frameCorrupt .endDelim])
    (by rw [happ]; exact if_neg h) (fdecRule_wp_wait _ (findPreamble_of_short (by simp)) _ _ _), happ]
  rfl

/-- The end delimiter behind a payload that reads as a Message with a checksum that verifies (R250). -/
theorem feedByte_we_ok {m : Message} (h : deserVerify p.textFormat pay = .ok m) :
    feedByte p ⟨.we, [0x7E#8], len, pay, op⟩ 0x7E#8 = (⟨.wp, [], 0, [], op⟩, [m], [.frameOk]) := by
  have happ := FdecRegs.append_of_short hcap 0x7E#8 (r := ⟨.we, [0x7E#8], len, pay, op⟩) (by simp)
  have hrule : fdecRule p.textFormat ⟨.we, [0x7E#8, 0x7E#8], len, pay, op⟩ =
      { regs := ⟨.wp, [], 0, [], op⟩, msgs := [m], events := [.frameOk], again := true } := by
    simp [fdecRule, ruleWe, Config.delimByte, h, FdecRegs.resync]
  rw [feedByte_of_again (by rw [happ]; exact hrule) rfl, happ]
  rfl

/-- The end delimiter behind any other payload (R251). -/
theorem feedByte_we_error {sub : Subcause} (h : deserVerify p.textFormat pay = .error sub) :
    feedByte p ⟨.we, [0x7E#8], len, pay, op⟩ 0x7E#8 = (⟨.wp, [], 0, [], op⟩, [], [.frameCorrupt sub]) := by
  have happ := FdecRegs.append_of_short hcap 0x7E#8 (r := ⟨.we, [0x7E#8], len, pay, op⟩) (by simp)
  have hrule : fdecRule p.textFormat ⟨.we, [0x7E#8, 0x7E#8], len, pay, op⟩ =
      { regs := ⟨.wp, [], 0, [], op⟩, msgs := [], events := [.frameCorrupt sub], again := true } := by
    simp [fdecRule, ruleWe, Config.delimByte, h, FdecRegs.resync]
  rw [feedByte_of_again (by rw [happ]; exact hrule) rfl, happ]
  rfl

end

/-! One byte in state `WP` (R242 to R244). -/

/-- What a search keeps of the buffer and the new byte: all, or the newest `HALF` bytes on overflow (R242). -/
def keptBytes (p : Params) (buf : List Byte) (b : Byte) : List Byte :=
  if p.cap < buf.length + 1 then (buf ++ [b]).drop (buf.length + 1 - p.cap / 2) else buf ++ [b]

/-- The events of taking a byte (R242). -/
def overflowEvents (p : Params) (buf : List Byte) : List Event := if p.cap < buf.length + 1 then [.bufferOverflow] else []

theorem FdecRegs.append_wp (p : Params) (buf : List Byte) (b : Byte) (op : Option FeedOp) :
    FdecRegs.append p ⟨.wp, buf, 0, [], op⟩ b = (⟨.wp, keptBytes p buf b, 0, [], op⟩, overflowEvents p buf) := by
  simp only [FdecRegs.append, keptBytes, overflowEvents, List.length_append, List.length_singleton, Params.half]
  split <;> rfl

/-- The last eight bytes are a preamble. -/
def EndsInPreamble (buf : List Byte) : Prop := buf.reverse.take 8 = List.replicate 8 0xAA#8

theorem findPreamble_eq_none_iff (buf : List Byte) : findPreamble buf = none ↔ ¬ HasPreamble buf := by
  rw [HasPreamble, ← findPreamble_isSome_iff]
  cases findPreamble buf <;> simp

/-- A buffer that ends in a preamble has it as its last eight bytes. -/
theorem endsInPreamble_iff (buf : List Byte) : EndsInPreamble buf ↔ List.replicate 8 0xAA#8 <:+ buf := by
  rw [EndsInPreamble, ← List.reverse_prefix, List.reverse_replicate, List.prefix_iff_eq_take, List.length_replicate]
  exact eq_comm

/-- A new byte can complete a preamble only at the end. -/
theorem HasPreamble.endsIn {buf : List Byte} {b : Byte} (h : HasPreamble (buf ++ [b])) (hno : ¬ HasPreamble buf) :
    EndsInPreamble (buf ++ [b]) :=
  (endsInPreamble_iff _).mpr ((List.infix_concat_iff.mp h).resolve_right hno)

theorem HasPreamble.mono {a c : List Byte} (h : HasPreamble a) (hac : a <:+: c) : HasPreamble c := h.trans hac

theorem EndsInPreamble.hasPreamble {buf : List Byte} (h : EndsInPreamble buf) : HasPreamble buf :=
  ((endsInPreamble_iff buf).mp h).isInfix

/-- A preamble that only the last byte completed is found at the last eight bytes. -/
theorem findPreamble_append_of_endsIn {buf : List Byte} {b : Byte} (hno : ¬ HasPreamble buf) (h : EndsInPreamble (buf ++ [b])) :
    ∃ k, findPreamble (buf ++ [b]) = some k ∧ (buf ++ [b]).drop (k + 8) = [] := by
  obtain ⟨k, hk⟩ := Option.isSome_iff_exists.mp ((findPreamble_isSome_iff _).mpr h.hasPreamble)
  have hle := findPreamble_length hk
  refine ⟨k, hk, List.drop_eq_nil_of_le ?_⟩
  by_contra hlt
  have hfit : k + 8 ≤ buf.length := by simp only [List.length_append, List.length_singleton] at hlt; omega
  have hat := (findPreamble_eq_some hk).1
  rw [List.drop_append_of_le_length (by omega), List.take_append_of_le_length (by simp [Config.preambleLen]; omega)] at hat
  apply hno
  rw [HasPreamble, ← hat]
  exact (List.take_prefix _ _).isInfix.trans (List.drop_suffix _ _).isInfix

section
variable {p : Params} (hcap : 16 ≤ p.cap) (buf : List Byte) (b : Byte) (op : Option FeedOp)
include hcap

/-- What is kept is the new byte behind the newest bytes of the buffer, seven of them at least where there were seven. -/
theorem keptBytes_eq : ∃ old, keptBytes p buf b = old ++ [b] ∧ old <:+ buf ∧ old.reverse.take 7 = buf.reverse.take 7 ∧
    old.length + 1 ≤ p.cap := by
  unfold keptBytes
  split
  · refine ⟨buf.drop (buf.length + 1 - p.cap / 2), List.drop_append_of_le_length (by omega), List.drop_suffix _ _, ?_, ?_⟩
    · rw [List.reverse_drop, List.take_take, Nat.min_eq_left (by omega)]
    · rw [List.length_drop]
      omega
  · exact ⟨buf, rfl, List.suffix_refl _, rfl, by omega⟩

/-- The byte that completes a preamble: everything up to it is dropped (R243). -/
theorem feedByte_wp_found (hno : ¬ HasPreamble buf) (h : EndsInPreamble (keptBytes p buf b)) :
    feedByte p ⟨.wp, buf, 0, [], op⟩ b = (⟨.ws, [], 0, [], op⟩, [], overflowEvents p buf ++ [.preambleFound]) := by
  obtain ⟨old, hold, hsuf, -, -⟩ := keptBytes_eq hcap buf b
  obtain ⟨k, hk, hdrop⟩ := findPreamble_append_of_endsIn (fun hp => hno (hp.mono hsuf.isInfix)) (hold ▸ h)
  have happ := FdecRegs.append_wp p buf b op
  rw [feedByte_of_again (r' := ⟨.ws, [], 0, [], op⟩) (ms := []) (es := [.preambleFound]) ?_ rfl, happ]
  rw [happ, hold]
  simp [fdecRule, ruleWp, hk, hdrop, Config.preambleLen]

/-- Any other byte: the search goes on with what is kept (R244). -/
theorem feedByte_wp_none (hno : ¬ HasPreamble buf) (h : ¬ EndsInPreamble (keptBytes p buf b)) :
    feedByte p ⟨.wp, buf, 0, [], op⟩ b = (⟨.wp, keptBytes p buf b, 0, [], op⟩, [], overflowEvents p buf) ∧
      ¬ HasPreamble (keptBytes p buf b) := by
  obtain ⟨old, hold, hsuf, -, -⟩ := keptBytes_eq hcap buf b
  have hkept : ¬ HasPreamble (keptBytes p buf b) := fun hp =>
    h (hold ▸ HasPreamble.endsIn (hold ▸ hp) fun hp' => hno (hp'.mono hsuf.isInfix))
  refine ⟨?_, hkept⟩
  have happ := FdecRegs.append_wp p buf b op
  rw [feedByte_of_wait, happ]
  rw [happ]
  exact fdecRule_wp_wait _ ((findPreamble_eq_none_iff _).mpr hkept) _ _ _

end

/-! Sound decoders, tag by tag. -/

section
variable {p : Params} {buf : List Byte} {len : Nat} {pay : List Byte} {op : Option FeedOp}

theorem FdecInv.wp (hno : ¬ HasPreamble buf) (h : buf.length ≤ p.cap) : FdecInv p ⟨.wp, buf, 0, [], op⟩ :=
  ⟨fun _ => hno, nofun, nofun, fun _ => ⟨rfl, rfl⟩, nofun, nofun, h⟩

theorem FdecInv.ws (hcap : 16 ≤ p.cap) (h : buf.length ≤ 1) : FdecInv p ⟨.ws, buf, 0, [], op⟩ :=
  ⟨nofun, fun _ => h, nofun, fun _ => ⟨rfl, rfl⟩, nofun, nofun, show buf.length ≤ p.cap by omega⟩

theorem FdecInv.rl (hcap : 16 ≤ p.cap) (h : buf.length ≤ 1) : FdecInv p ⟨.rl, buf, 0, [], op⟩ :=
  ⟨nofun, fun _ => h, nofun, fun _ => ⟨rfl, rfl⟩, nofun, nofun, show buf.length ≤ p.cap by omega⟩

theorem FdecInv.rm (h : 1 ≤ len ∧ len ≤ 1024 ∧ pay.length < len) : FdecInv p ⟨.rm, [], len, pay, op⟩ :=
  ⟨nofun, nofun, fun _ => rfl, nofun, fun _ => h, nofun, Nat.zero_le _⟩

theorem FdecInv.we (hcap : 16 ≤ p.cap) (hb : buf.length ≤ 1) (h : 1 ≤ len ∧ len ≤ 1024 ∧ pay.length = len) :
    FdecInv p ⟨.we, buf, len, pay, op⟩ :=
  ⟨nofun, fun _ => hb, nofun, nofun, nofun, fun _ => h, show buf.length ≤ p.cap by omega⟩

/-- Two bytes left after a mismatch hold no preamble. -/
theorem FdecInv.resynced (hcap : 16 ≤ p.cap) (a b : Byte) : FdecInv p ⟨.wp, [a, b], 0, [], op⟩ :=
  .wp ((findPreamble_eq_none_iff _).mp (findPreamble_of_short (by simp))) (by simp; omega)

/-- A fresh decoder is sound. -/
theorem FdecInv.fresh : FdecInv p ⟨.wp, [], 0, [], op⟩ :=
  .wp ((findPreamble_eq_none_iff _).mp rfl) (Nat.zero_le _)

end

/-- What a sound decoder can be, tag by tag. -/
theorem FdecInv.shape {p : Params} {r : FdecRegs} (h : FdecInv p r) :
    (∃ buf op, r = ⟨.wp, buf, 0, [], op⟩ ∧ ¬ HasPreamble buf) ∨
    (∃ tag buf op, (tag = .ws ∨ tag = .rl) ∧ r = ⟨tag, buf, 0, [], op⟩ ∧ buf.length ≤ 1) ∨
    (∃ len pay op, r = ⟨.rm, [], len, pay, op⟩ ∧ 1 ≤ len ∧ len ≤ 1024 ∧ pay.length < len) ∨
    (∃ buf len pay op, r = ⟨.we, buf, len, pay, op⟩ ∧ buf.length ≤ 1 ∧ 1 ≤ len ∧ len ≤ 1024 ∧ pay.length = len) := by
  obtain ⟨tag, buf, len, pay, op⟩ := r
  obtain ⟨hno, hshort, hempty, hclear, hread, hwait, -⟩ := h
  cases tag with
  | wp =>
    obtain ⟨rfl, rfl⟩ := hclear (.inl rfl)
    exact .inl ⟨buf, op, rfl, hno rfl⟩
  | ws =>
    obtain ⟨rfl, rfl⟩ := hclear (.inr (.inl rfl))
    exact .inr (.inl ⟨.ws, buf, op, .inl rfl, rfl, hshort (.inl rfl)⟩)
  | rl =>
    obtain ⟨rfl, rfl⟩ := hclear (.inr (.inr rfl))
    exact .inr (.inl ⟨.rl, buf, op, .inr rfl, rfl, hshort (.inr (.inl rfl))⟩)
  | rm =>
    obtain rfl : buf = [] := hempty rfl
    exact .inr (.inr (.inl ⟨len, pay, op, rfl, hread rfl⟩))
  | we => exact .inr (.inr (.inr ⟨buf, len, pay, op, rfl, hshort (.inr (.inr rfl)), hwait rfl⟩))

/-- A buffer of at most one byte is empty or holds one. -/
theorem length_le_one_cases {buf : List Byte} (h : buf.length ≤ 1) : buf = [] ∨ ∃ a, buf = [a] := by
  match buf, h with
  | [], _ => exact .inl rfl
  | [a], _ => exact .inr ⟨a, rfl⟩

/-- One `feed_byte` keeps a sound decoder sound (R260). -/
theorem feedByte_keeps_fdecInv {p : Params} {r : FdecRegs} (hcap : 16 ≤ p.cap) (h : FdecInv p r) (b : Byte) :
    FdecInv p (feedByte p r b).1 := by
  obtain ⟨buf, op, rfl, hno⟩ | ⟨tag, buf, op, ht, rfl, hb⟩ | ⟨len, pay, op, rfl, h1, h2, h3⟩ | ⟨buf, len, pay, op, rfl, hb, hlen⟩ := h.shape
  · by_cases hend : EndsInPreamble (keptBytes p buf b)
    · rw [feedByte_wp_found hcap buf b op hno hend]
      exact .ws hcap (Nat.zero_le _)
    · obtain ⟨hfeed, hkept⟩ := feedByte_wp_none hcap buf b op hno hend
      obtain ⟨old, hold, -, -, hlen⟩ := keptBytes_eq hcap buf b
      rw [hfeed]
      exact .wp hkept (by rw [hold]; simpa using hlen)
  · obtain rfl | ⟨a, rfl⟩ := length_le_one_cases hb
    · rw [feedByte_first hcap b 0 [] op (ht.imp_right .inl)]
      obtain rfl | rfl := ht
      · exact .ws hcap (by simp)
      · exact .rl hcap (by simp)
    · obtain rfl | rfl := ht
      · by_cases hd : a = 0x7E#8 ∧ b = 0x7E#8
        · obtain ⟨rfl, rfl⟩ := hd
          rw [feedByte_ws_delim hcap]
          exact .rl hcap (by simp)
        · rw [feedByte_ws_mismatch hcap a b 0 [] op hd]
          exact .resynced hcap a b
      · by_cases hl : 1 ≤ lengthOfBytes a b ∧ lengthOfBytes a b ≤ 1024
        · rw [feedByte_rl_legal hcap a b 0 [] op hl]
          exact .rm ⟨hl.1, hl.2, hl.1⟩
        · rw [feedByte_rl_illegal hcap a b 0 [] op hl]
          exact .resynced hcap a b
  · by_cases hlast : pay.length + 1 = len
    · rw [feedByte_rm_last hcap b len pay op hlast]
      exact .we hcap (by simp) ⟨h1, h2, by simpa using hlast⟩
    · rw [feedByte_rm_more hcap b len pay op (by omega)]
      exact .rm ⟨h1, h2, by simp; omega⟩
  · obtain rfl | ⟨a, rfl⟩ := length_le_one_cases hb
    · rw [feedByte_first hcap b len pay op (.inr (.inr rfl))]
      exact .we hcap (by simp) hlen
    · by_cases hd : a = 0x7E#8 ∧ b = 0x7E#8
      · obtain ⟨rfl, rfl⟩ := hd
        cases hv : deserVerify p.textFormat pay with
        | ok m =>
          rw [feedByte_we_ok hcap len pay op hv]
          exact .fresh
        | error sub =>
          rw [feedByte_we_error hcap len pay op hv]
          exact .fresh
      · rw [feedByte_we_mismatch hcap a b len pay op hd]
        exact .resynced hcap a b

/-- Bytes fed keep a sound decoder sound. -/
theorem feedBytes_keeps_fdecInv {p : Params} {r : FdecRegs} (hcap : 16 ≤ p.cap) (h : FdecInv p r) (bytes : List Byte) :
    FdecInv p (feedBytes p r bytes).1 := by
  induction bytes generalizing r with
  | nil => exact h
  | cons b rest ih => exact ih (feedByte_keeps_fdecInv hcap h b)

/-! What is emitted verifies. -/

theorem verifyMessage_iff (f : TextFormat) (m : Message) :
    verifyMessage f m = true ↔ m.checksum = crc32 (serHdrText f m.header ++ m.payload) := by
  simp [verifyMessage, messageChecksum]

theorem fdecRules_msgs_verify (f : TextFormat) (n : Nat) (r : FdecRegs) (m : Message) (h : m ∈ (fdecRules f n r).2.1) :
    verifyMessage f m = true := by
  induction n generalizing r with
  | zero => simp [fdecRules] at h
  | succ n ih =>
    simp only [fdecRules] at h
    split at h
    · obtain h | h := List.mem_append.mp h
      · exact fdecRule_msgs_verify f r m h
      · exact ih _ h
    · exact fdecRule_msgs_verify f r m h

theorem feedBytes_msgs_verify (p : Params) (r : FdecRegs) (bytes : List Byte) (m : Message) (h : m ∈ (feedBytes p r bytes).2.1) :
    verifyMessage p.textFormat m = true := by
  induction bytes generalizing r with
  | nil => simp [feedBytes] at h
  | cons b rest ih =>
    obtain h | h := List.mem_append.mp h
    · exact fdecRules_msgs_verify _ _ _ m h
    · exact ih _ h

/-! Why a text has no Message (R254). -/

theorem deserVerify_of_verifies {f : TextFormat} {text : List Byte} {m : Message} (h : deserText f text = some m)
    (hv : m.checksum = crc32 (serHdrText f m.header ++ m.payload)) : deserVerify f text = .ok m :=
  (deserVerify_eq_ok_iff _ _ _).mpr ⟨h, (verifyMessage_iff f m).mpr hv⟩

theorem deserVerify_of_wrong_checksum {f : TextFormat} {text : List Byte} {m : Message} (h : deserText f text = some m)
    (hv : m.checksum ≠ crc32 (serHdrText f m.header ++ m.payload)) : deserVerify f text = .error .crc := by
  simp [deserVerify, h, mt (verifyMessage_iff f m).mp hv]

theorem deserVerify_of_none {f : TextFormat} {text : List Byte} (h : deserText f text = none) :
    deserVerify f text = .error .deser := by
  simp [deserVerify, h]

end Sys2Proof.Machine

namespace Sys2Proof.Proofs
open Sys2Proof.Machine

/-- Settles O50, state by state; FDEC's tag and buffer name the lemma. -/
theorem feedByteTransitions : Obligations.FeedByteTransitions := by
  unfold Obligations.FeedByteTransitions
  intro p r b hcap hinv
  obtain ⟨buf, op, rfl, hno⟩ | ⟨tag, buf, op, ht, rfl, hb⟩ | ⟨len, pay, op, rfl, h1, h2, h3⟩ | ⟨buf, len, pay, op, rfl, hb, hlen⟩ :=
    hinv.shape
  · refine ⟨fun _ => ⟨_, _, rfl, rfl, fun hend => feedByte_wp_found hcap buf b op hno hend, fun hend =>
      (feedByte_wp_none hcap buf b op hno hend).1⟩, nofun, nofun, nofun, nofun, nofun, nofun, nofun⟩
  · obtain rfl | rfl := ht
    · refine ⟨nofun, ?_, ?_, nofun, nofun, nofun, nofun, nofun⟩
      · rintro - rfl
        exact feedByte_first hcap b 0 [] op (.inl rfl)
      · rintro a - rfl
        refine ⟨?_, fun hd => feedByte_ws_mismatch hcap a b 0 [] op hd⟩
        rintro ⟨rfl, rfl⟩
        exact feedByte_ws_delim hcap 0 [] op
    · refine ⟨nofun, nofun, nofun, ?_, ?_, nofun, nofun, nofun⟩
      · rintro - rfl
        exact feedByte_first hcap b 0 [] op (.inr (.inl rfl))
      · rintro a - rfl
        refine ⟨fun hl => feedByte_rl_legal hcap a b 0 [] op hl, fun hl => feedByte_rl_illegal hcap a b 0 [] op ?_⟩
        rw [lengthOfBytes]
        omega
  · refine ⟨nofun, nofun, nofun, nofun, nofun, fun _ => ?_, nofun, nofun⟩
    by_cases hlast : pay.length + 1 = len
    · rw [feedByte_rm_last hcap b len pay op hlast]
      simp [hlast]
    · rw [feedByte_rm_more hcap b len pay op (by omega)]
      simp [hlast]
  · refine ⟨nofun, nofun, nofun, nofun, nofun, nofun, ?_, ?_⟩
    · rintro - rfl
      exact feedByte_first hcap b len pay op (.inr (.inr rfl))
    · rintro a - rfl
      refine ⟨fun hd => feedByte_we_mismatch hcap a b len pay op hd, ?_⟩
      rintro ⟨rfl, rfl⟩
      refine ⟨?_, fun m hm hv => ?_, fun m hm hv => ?_, fun hn => ?_⟩
      · cases hv : deserVerify p.textFormat pay with
        | ok m => rw [feedByte_we_ok hcap len pay op hv]
        | error sub => rw [feedByte_we_error hcap len pay op hv]
      · rw [feedByte_we_ok hcap len pay op (deserVerify_of_verifies hm hv)]
      · rw [feedByte_we_error hcap len pay op (deserVerify_of_wrong_checksum hm hv)]
      · rw [feedByte_we_error hcap len pay op (deserVerify_of_none hn)]

/-- Settles O51, by the shape of a sound decoder and the lemma on each of its tags. -/
theorem feedByteKeepsDecoderInvariant : Obligations.FeedByteKeepsDecoderInvariant := by
  unfold Obligations.FeedByteKeepsDecoderInvariant
  intro p r b hcap hinv
  exact feedByte_keeps_fdecInv hcap hinv b

/-- Settles O52: the bound is above the measure that every continuing rule makes smaller, in sound decoders and in all others. -/
theorem feedByteTerminates : Obligations.FeedByteTerminates := by
  unfold Obligations.FeedByteTerminates
  intro p r b n _ _ a hn
  exact fdecRules_stable _ ((FdecRegs.measure_lt_rulesEnough _).trans_le hn) (FdecRegs.measure_lt_rulesEnough _)

/-- Settles O53: each Message comes from a rule, and a rule emits only what verifies. -/
theorem emittedMessagesVerify : Obligations.EmittedMessagesVerify := by
  unfold Obligations.EmittedMessagesVerify
  intro p r bytes m h
  exact (verifyMessage_iff _ _).mp (feedBytes_msgs_verify p r bytes m h)

end Sys2Proof.Proofs
end

-- ==== Proofs: 30_encoding.md, the Message text ====
section
/-!
SUPPORT. Proofs of the statements on the Message text of the reference format (30_encoding.md R107 to R112): decimal numerals, the sizes of
the texts, and that reading a text gives the Message back.
-/

-- One declaration after another: fewer threads, and so less memory, at a time.
set_option Elab.async false

namespace Sys2Proof.Machine

/-! Decimal numerals (R107). -/

/-- The character of a decimal digit. -/
def digitByte (d : Nat) : Byte := BitVec.ofNat 8 (0x30 + d)

theorem digitByte_toNat {d : Nat} (h : d < 10) : (digitByte d).toNat = 0x30 + d := by
  simp only [digitByte, BitVec.toNat_ofNat]
  omega

theorem isDigit_digitByte {d : Nat} (h : d < 10) : isDigit (digitByte d) = true := by
  simp only [isDigit, digitByte_toNat h, decide_eq_true_eq]
  omega

/-- The digits of a positive number that fits, newest first, are those of its expansion in base ten. -/
theorem decimalDigits_reverse {k n : Nat} (hpos : 0 < n) (h : n < 10 ^ k) :
    (decimalDigits k n).reverse = (Nat.digits 10 n).map digitByte := by
  induction k generalizing n with
  | zero => omega
  | succ k ih =>
    rw [Nat.digits_def' (by decide) hpos, decimalDigits]
    split
    · next hlt =>
      rw [Nat.div_eq_of_lt hlt, Nat.mod_eq_of_lt hlt]
      simp [digitByte]
    · next hge =>
      rw [List.reverse_append, ih (by omega) (by rw [Nat.pow_succ] at h; omega)]
      simp [digitByte]

theorem lt_ten_pow_log2 (n : Nat) : n < 10 ^ (Nat.log2 n + 1) :=
  Nat.lt_log2_self.trans_le (Nat.pow_le_pow_left (by decide) _)

theorem dec_zero : dec 0 = [digitByte 0] := by decide

theorem dec_reverse {n : Nat} (h : 0 < n) : (dec n).reverse = (Nat.digits 10 n).map digitByte :=
  decimalDigits_reverse h (lt_ten_pow_log2 n)

/-- Every character of a numeral is a digit. -/
theorem isDigit_of_mem_dec {n : Nat} {b : Byte} (h : b ∈ dec n) : isDigit b = true := by
  rcases Nat.eq_zero_or_pos n with rfl | hn
  · rw [dec_zero, List.mem_singleton] at h
    rw [h]
    exact isDigit_digitByte (by decide)
  · rw [← List.mem_reverse, dec_reverse hn] at h
    obtain ⟨d, hd, rfl⟩ := List.mem_map.mp h
    exact isDigit_digitByte (Nat.digits_lt_base (by decide) hd)

theorem digitsValue_map_digitByte {ds : List Nat} (h : ∀ d ∈ ds, d < 10) : digitsValue (ds.map digitByte) = Nat.ofDigits 10 ds := by
  induction ds with
  | nil => rfl
  | cons d ds ih =>
    rw [List.map_cons, digitsValue, ih fun e he => h e (List.mem_cons_of_mem d he), digitByte_toNat (h d List.mem_cons_self),
      Nat.ofDigits_cons]
    omega

/-- A numeral has the value of its number. -/
theorem digitsValue_dec (n : Nat) : digitsValue (dec n).reverse = n := by
  rcases Nat.eq_zero_or_pos n with rfl | hn
  · rw [dec_zero]
    decide
  · rw [dec_reverse hn, digitsValue_map_digitByte fun d hd => Nat.digits_lt_base (by decide) hd, Nat.ofDigits_digits]

theorem dec_length_pos (n : Nat) : 1 ≤ (dec n).length := by
  unfold dec decimalDigits
  split <;> simp

theorem dec_length_le {n k : Nat} (hk : 0 < k) (h : n < 10 ^ k) : (dec n).length ≤ k := by
  rcases Nat.eq_zero_or_pos n with rfl | hn
  · exact hk
  · rw [← List.length_reverse, dec_reverse hn, List.length_map]
    exact (Nat.digits_length_le_iff (by decide) n).mpr h

/-- A numeral is `0` or does not begin with `0`. -/
theorem dec_head (n : Nat) : (dec n).reverse = [0x30#8] ∨ (dec n).reverse.getLast? ≠ some 0x30#8 := by
  rcases Nat.eq_zero_or_pos n with rfl | hn
  · exact .inl (by decide)
  · refine .inr fun h => ?_
    have hne : Nat.digits 10 n ≠ [] := Nat.digits_ne_nil_iff_ne_zero.mpr (by omega)
    have hlast := Nat.getLast_digit_ne_zero 10 (show n ≠ 0 by omega)
    have hlt : (Nat.digits 10 n).getLast hne < 10 := Nat.digits_lt_base (by decide) (List.getLast_mem hne)
    rw [dec_reverse hn, List.getLast?_map, List.getLast?_eq_some_getLast hne, Option.map_some, Option.some.injEq] at h
    have := congrArg BitVec.toNat h
    rw [digitByte_toNat hlt] at this
    exact hlast (by simpa using this)

/-- The token of a numeral of at most 20 digits. -/
theorem numberToken_dec {n : Nat} (h : n < 10 ^ 20) : numberToken (dec n).reverse = some (.num n) := by
  rw [numberToken, if_pos ⟨by rw [List.length_reverse]; exact dec_length_le (by decide) h, dec_head n⟩, digitsValue_dec]

/-! Scanning: a piece of text that is read as certain tokens, whatever follows. -/

/-- `x` is read as the tokens `ts`. -/
def Lexes (x : List Byte) (ts : List Tok) : Prop := ∀ rest, lex .between (x ++ rest) = (lex .between rest).map (ts ++ ·)

theorem Lexes.nil : Lexes [] [] := fun rest => by simp

theorem Lexes.append {x y : List Byte} {ts us : List Tok} (hx : Lexes x ts) (hy : Lexes y us) : Lexes (x ++ y) (ts ++ us) := by
  intro rest
  rw [List.append_assoc, hx, hy, Option.map_map]
  congr 1
  funext vs
  simp

theorem lex_eq_some {x : List Byte} {ts : List Tok} (h : Lexes x ts) : lex .between x = some ts := by
  have := h []
  simpa [lex] using this

/-- The scanner reads one byte. -/
theorem lex_cons_of_some {m m' : LexMode} {b : Byte} {ts : List Tok} (h : lexByte m b = some (ts, m')) (rest : List Byte) :
    lex m (b :: rest) = (lex m' rest).map (ts ++ ·) := by
  rw [lex, h]

theorem lex_cons_of_none {m : LexMode} {b : Byte} (h : lexByte m b = none) (rest : List Byte) : lex m (b :: rest) = none := by
  rw [lex, h]

/-- A byte that completes no token. -/
theorem lex_cons_of_silent {m m' : LexMode} {b : Byte} (h : lexByte m b = some ([], m')) (rest : List Byte) :
    lex m (b :: rest) = lex m' rest := by
  rw [lex_cons_of_some h]
  simp

/-- A character that is a token by itself. -/
theorem Lexes.char {c : Byte} {t : Tok} (h : lexBetween c = some ([t], .between)) : Lexes [c] [t] :=
  fun rest => lex_cons_of_some (m := .between) h rest

theorem lex_inString {s : List Byte} (h : ∀ b ∈ s, isStringChar b = true) (rev rest : List Byte) :
    lex (.inString rev) (s ++ chQuote :: rest) = (lex .between rest).map ([.str (rev.reverse ++ s)] ++ ·) := by
  induction s generalizing rev with
  | nil => simpa using lex_cons_of_some (m := .inString rev) (b := chQuote) rfl rest
  | cons b s ih =>
    have hb : isStringChar b = true := h b List.mem_cons_self
    have hq : b ≠ chQuote := fun he => by rw [he] at hb; exact absurd hb (by decide)
    rw [List.cons_append, lex_cons_of_silent (m' := .inString (b :: rev)) (by rw [lexByte, if_neg hq, if_pos hb]),
      ih fun c hc => h c (List.mem_cons_of_mem b hc)]
    simp

/-- A string token. -/
theorem Lexes.quoted {s : List Byte} (h : ∀ b ∈ s, isStringChar b = true) : Lexes (quoted s) [.str s] := by
  intro rest
  rw [show Machine.quoted s ++ rest = chQuote :: (s ++ chQuote :: rest) by simp [Machine.quoted],
    lex_cons_of_silent (m' := .inString []) rfl, lex_inString h]
  rfl

/-- A key with its colon. -/
theorem Lexes.keyed {k : List Byte} (h : ∀ b ∈ k, isStringChar b = true) : Lexes (keyed k) [.str k, .colon] :=
  (Lexes.quoted h).append (.char rfl)

theorem lex_inNumber {ds : List Byte} (h : ∀ b ∈ ds, isDigit b = true) (rev rest : List Byte) :
    lex (.inNumber rev) (ds ++ rest) = lex (.inNumber (ds.reverse ++ rev)) rest := by
  induction ds generalizing rev with
  | nil => rfl
  | cons d ds ih =>
    rw [List.cons_append, lex_cons_of_silent (m' := .inNumber (d :: rev)) (by rw [lexByte, if_pos (h d List.mem_cons_self)]),
      ih fun c hc => h c (List.mem_cons_of_mem d hc)]
    simp

/-- A digit begins a number. -/
theorem lexBetween_digit {b : Byte} (h : isDigit b = true) : lexBetween b = some ([], .inNumber [b]) := by
  have hr : 0x30 ≤ b.toNat ∧ b.toNat ≤ 0x39 := by simpa [isDigit] using h
  have hne : ∀ c : Byte, c.toNat < 0x30 ∨ 0x39 < c.toNat → b ≠ c := fun c hc he => by rw [he] at hr; omega
  have hspace : ¬ isSpace b = true := by
    simp only [isSpace, Bool.or_eq_true, beq_iff_eq, not_or]
    exact ⟨⟨⟨hne _ (by decide), hne _ (by decide)⟩, hne _ (by decide)⟩, hne _ (by decide)⟩
  rw [lexBetween, if_neg hspace, if_neg (hne _ (by decide)), if_neg (hne _ (by decide)), if_neg (hne _ (by decide)),
    if_neg (hne _ (by decide)), if_neg (hne _ (by decide)), if_neg (hne _ (by decide)), if_neg (hne _ (by decide)), if_pos h]

/-- A byte that is no digit ends a number, and is read as it is between tokens. -/
theorem lex_inNumber_end {rev : List Byte} {c : Byte} {t : Tok} (hc : isDigit c = false) (ht : numberToken rev = some t)
    (rest : List Byte) : lex (.inNumber rev) (c :: rest) = (lex .between (c :: rest)).map (t :: ·) := by
  cases hb : lexBetween c with
  | none => rw [lex_cons_of_none (by simp [lexByte, hc, ht, hb]), lex_cons_of_none (m := .between) hb, Option.map_none]
  | some e =>
    obtain ⟨ts, m⟩ := e
    rw [lex_cons_of_some (ts := t :: ts) (m' := m) (by simp [lexByte, hc, ht, hb]), lex_cons_of_some (m := .between) hb,
      Option.map_map]
    rfl

/-- A numeral with something behind it that begins with no digit. -/
theorem Lexes.dec_append {n : Nat} {c : Byte} {y : List Byte} {us : List Tok} (hn : n < 10 ^ 20) (hc : isDigit c = false)
    (hy : Lexes (c :: y) us) : Lexes (dec n ++ c :: y) (.num n :: us) := by
  intro rest
  obtain ⟨d, ds, hd⟩ : ∃ d ds, dec n = d :: ds := List.exists_cons_of_length_pos (dec_length_pos n)
  have hdig : ∀ b ∈ d :: ds, isDigit b = true := fun b hb => isDigit_of_mem_dec (hd ▸ hb)
  have htok : numberToken (ds.reverse ++ [d]) = some (.num n) := by
    rw [← List.reverse_cons, ← hd]
    exact numberToken_dec hn
  calc lex .between (dec n ++ c :: y ++ rest)
      = lex .between (d :: (ds ++ (c :: (y ++ rest)))) := by rw [hd]; simp
    _ = lex (.inNumber (ds.reverse ++ [d])) (c :: (y ++ rest)) := by
        rw [lex_cons_of_silent (m := .between) (lexBetween_digit (hdig d List.mem_cons_self)),
          lex_inNumber fun b hb => hdig b (List.mem_cons_of_mem d hb)]
    _ = (lex .between rest).map ((.num n :: us) ++ ·) := by
        rw [lex_inNumber_end hc htok, show c :: (y ++ rest) = (c :: y) ++ rest from rfl, hy, Option.map_map]
        rfl

/-! The texts, as tokens. -/

theorem isStringChar_kindTag (k : Kind) : ∀ b ∈ kindTag k, isStringChar b = true := by
  cases k <;> decide

/-- A comma or bracket or brace behind a numeral, and what follows it. -/
theorem Lexes.dec_char {n : Nat} {c : Byte} {t : Tok} {y : List Byte} {us : List Tok} (hn : n < 10 ^ 20) (hc : isDigit c = false)
    (ht : lexBetween c = some ([t], .between)) (hy : Lexes y us) : Lexes (dec n ++ c :: y) (.num n :: t :: us) :=
  Lexes.dec_append hn hc ((Lexes.char ht).append hy)

/-- The tokens of `SER_HDR(h)`. -/
def headerToks (h : Header) : List Tok :=
  [.lbrace, .str keyVersion, .colon, .num h.version.toNat, .comma, .str keyMessageType, .colon, .str (kindTag h.kind), .comma,
    .str keySequenceNumber, .colon, .num h.sequenceNumber.toNat, .comma, .str keyTimestamp, .colon, .num h.timestamp.toNat, .comma,
    .str keyPayloadLength, .colon, .num h.payloadLength.toNat, .rbrace]

/-- `SER_HDR(h)`, its parts nested from the left end. -/
theorem serHeader_eq (h : Header) : serHeader h =
    [chLBrace] ++ (keyed keyVersion ++ (dec h.version.toNat ++ chComma :: (keyed keyMessageType ++ (quoted (kindTag h.kind) ++
      ([chComma] ++ (keyed keySequenceNumber ++ (dec h.sequenceNumber.toNat ++ chComma :: (keyed keyTimestamp ++
        (dec h.timestamp.toNat ++ chComma :: (keyed keyPayloadLength ++ (dec h.payloadLength.toNat ++ chRBrace :: []))))))))))) := by
  simp [serHeader]

theorem toNat_lt_ten_pow {w : Nat} (x : BitVec w) (h : w ≤ 64) : x.toNat < 10 ^ 20 :=
  x.isLt.trans_le ((Nat.pow_le_pow_right (by decide) h).trans (by decide))

/-- A header text is read as its tokens. -/
theorem lexes_serHeader (h : Header) : Lexes (serHeader h) (headerToks h) := by
  rw [serHeader_eq]
  exact (Lexes.char rfl).append <| (Lexes.keyed (by decide)).append <|
    Lexes.dec_char (toNat_lt_ten_pow _ (by decide)) rfl rfl <| (Lexes.keyed (by decide)).append <|
    (Lexes.quoted (isStringChar_kindTag h.kind)).append <| (Lexes.char rfl).append <| (Lexes.keyed (by decide)).append <|
    Lexes.dec_char (toNat_lt_ten_pow _ (by decide)) rfl rfl <| (Lexes.keyed (by decide)).append <|
    Lexes.dec_char (toNat_lt_ten_pow _ (by decide)) rfl rfl <| (Lexes.keyed (by decide)).append <|
    Lexes.dec_char (toNat_lt_ten_pow _ (by decide)) rfl rfl Lexes.nil

/-- The tokens of a payload's elements. -/
def elementToks : List Byte → List Tok
  | [] => []
  | [b] => [.num b.toNat]
  | b :: rest => .num b.toNat :: .comma :: elementToks rest

/-- The elements of a payload are read as theirs, with the bracket behind them. -/
theorem lexes_serArray (payload : List Byte) {y : List Byte} {us : List Tok} (hy : Lexes y us) :
    Lexes (serArray payload ++ chRBracket :: y) (elementToks payload ++ .rbracket :: us) := by
  induction payload with
  | nil => exact (Lexes.char rfl).append hy
  | cons b rest ih =>
    cases rest with
    | nil => exact Lexes.dec_char (toNat_lt_ten_pow b (by decide)) rfl rfl hy
    | cons c rest =>
      have := Lexes.dec_char (c := chComma) (toNat_lt_ten_pow b (by decide)) rfl rfl ih
      simpa [serArray, elementToks] using this

/-- The tokens of `SER(m)`. -/
def messageToks (m : Message) : List Tok :=
  .lbrace :: .str keyHeader :: .colon :: (headerToks m.header ++ .comma :: .str keyPayload :: .colon :: .lbracket ::
    (elementToks m.payload ++ .rbracket :: .comma :: .str keyChecksum :: .colon :: .num m.checksum.toNat :: .rbrace :: []))

/-- `SER(m)`, its parts nested from the left end. -/
theorem serMessage_eq (m : Message) : serMessage m =
    [chLBrace] ++ (keyed keyHeader ++ (serHeader m.header ++ ([chComma] ++ (keyed keyPayload ++ ([chLBracket] ++
      (serArray m.payload ++ chRBracket :: ([chComma] ++ (keyed keyChecksum ++ (dec m.checksum.toNat ++ chRBrace :: []))))))))) := by
  simp [serMessage]

/-- A Message text is read as its tokens. -/
theorem lexes_serMessage (m : Message) : Lexes (serMessage m) (messageToks m) := by
  rw [serMessage_eq]
  exact (Lexes.char rfl).append <| (Lexes.keyed (by decide)).append <| (lexes_serHeader m.header).append <|
    (Lexes.char rfl).append <| (Lexes.keyed (by decide)).append <| (Lexes.char rfl).append <| lexes_serArray m.payload <|
    (Lexes.char rfl).append <| (Lexes.keyed (by decide)).append <|
    Lexes.dec_char (toNat_lt_ten_pow _ (by decide)) rfl rfl Lexes.nil

/-! The grammar. -/

theorem numberInRange_toNat {w : Nat} (x : BitVec w) : numberInRange w (.num x.toNat) = some x := by
  simp [numberInRange, x.isLt]

theorem kindOfTag_kindTag (k : Kind) : kindOfTag (kindTag k) = some k := by
  cases k <;> decide

/-- The members of a header are read back (R111). -/
theorem parseHeaderMembers_headerToks (h : Header) (rest : List Tok) :
    parseHeaderMembers ((headerToks h).tail ++ rest) HeaderParts.empty = some (h, rest) := by
  simp [headerToks, parseHeaderMembers, HeaderParts.set, HeaderParts.empty, HeaderParts.complete, numberInRange_toNat, kindOfTag_kindTag,
    show keyMessageType ≠ keyVersion by decide, show keySequenceNumber ≠ keyVersion by decide]

/-- The elements of a payload that is not empty are read back (R111). -/
theorem parseElements_elementToks {payload : List Byte} (h : payload ≠ []) (rest : List Tok) :
    parseElements (elementToks payload ++ .rbracket :: rest) = some (payload, rest) := by
  induction payload with
  | nil => exact absurd rfl h
  | cons b payload ih =>
    have hb : b.toNat < 256 := b.isLt
    cases payload with
    | nil => simp [elementToks, parseElements, hb]
    | cons c payload =>
      have hstep := ih (List.cons_ne_nil c payload)
      rw [elementToks, List.cons_append, List.cons_append, parseElements, if_pos hb, hstep]
      · simp
      · exact List.cons_ne_nil c payload

/-- A payload is read back, empty or not (R111). -/
theorem parsePayload_elementToks (payload : List Byte) (rest : List Tok) :
    parsePayload (.lbracket :: (elementToks payload ++ .rbracket :: rest)) = some (payload, rest) := by
  cases payload with
  | nil => rfl
  | cons b payload =>
    have helems := parseElements_elementToks (List.cons_ne_nil b payload) rest
    obtain ⟨tail, htail⟩ : ∃ tail, elementToks (b :: payload) = .num b.toNat :: tail := by
      cases payload with
      | nil => exact ⟨[], rfl⟩
      | cons c payload => exact ⟨_, rfl⟩
    rw [htail] at helems ⊢
    exact helems

/-- The tokens of a Message text are read as the Message (R111). -/
theorem parseMessage_messageToks (m : Message) : parseMessage (messageToks m) = some m := by
  have hheader (rest : List Tok) : MessageParts.empty.read keyHeader (headerToks m.header ++ rest) =
      some ({ MessageParts.empty with header := some m.header }, rest) := by
    have htail : headerToks m.header ++ rest = .lbrace :: ((headerToks m.header).tail ++ rest) := rfl
    rw [htail]
    simp only [MessageParts.read, MessageParts.empty, and_self, if_true, parseHeaderMembers_headerToks, Option.map_some]
  have hpayload (rest : List Tok) : ({ MessageParts.empty with header := some m.header } : MessageParts).read keyPayload
      (.lbracket :: (elementToks m.payload ++ .rbracket :: rest)) =
      some ({ header := some m.header, payload := some m.payload, checksum := none }, rest) := by
    simp only [MessageParts.read, MessageParts.empty, parsePayload_elementToks, Option.map_some]
    rw [if_neg fun h => absurd h.1 (by decide), if_pos ⟨trivial, trivial⟩]
  have hchecksum (rest : List Tok) :
      ({ header := some m.header, payload := some m.payload, checksum := none } : MessageParts).read keyChecksum
        (.num m.checksum.toNat :: rest) =
      some ({ header := some m.header, payload := some m.payload, checksum := some m.checksum }, rest) := by
    simp only [MessageParts.read, numberInRange_toNat, Option.map_some]
    rw [if_neg fun h => absurd h.1 (by decide), if_neg fun h => absurd h.1 (by decide), if_pos ⟨trivial, trivial⟩]
  simp only [messageToks, parseMessage, parseMessageMembers, hheader, hpayload, hchecksum, MessageParts.complete, Option.map_some]

/-- Reading a text gives the Message back (R112 (a)). -/
theorem deserialise_serMessage (m : Message) : deserialise (serMessage m) = some m := by
  simp only [deserialise, lex_eq_some (lexes_serMessage m), parseMessage_messageToks]

/-! Sizes (R109). -/

theorem serArray_length (payload : List Byte) :
    (serArray payload).length = (payload.map (fun b => (dec b.toNat).length)).sum + (payload.length - 1) := by
  induction payload with
  | nil => rfl
  | cons b payload ih =>
    cases payload with
    | nil => simp [serArray]
    | cons c payload =>
      rw [serArray, List.length_append, List.length_cons, ih]
      · simp
        omega
      · exact List.cons_ne_nil c payload

theorem serHeader_length (h : Header) : (serHeader h).length =
    80 + (dec h.version.toNat).length + (kindTag h.kind).length + (dec h.sequenceNumber.toNat).length
      + (dec h.timestamp.toNat).length + (dec h.payloadLength.toNat).length := by
  simp [serHeader, keyed, quoted, keyVersion, keyMessageType, keySequenceNumber, keyTimestamp, keyPayloadLength, ascii]
  omega

theorem serMessage_length (m : Message) : (serMessage m).length =
    36 + (serHeader m.header).length + (m.payload.map (fun b => (dec b.toNat).length)).sum + (m.payload.length - 1)
      + (dec m.checksum.toNat).length := by
  simp [serMessage, keyed, quoted, keyHeader, keyPayload, keyChecksum, ascii, serArray_length]
  omega

theorem three_le_kindTag_length (k : Kind) : 3 ≤ (kindTag k).length := by
  cases k <;> decide

/-! No byte of a text is a preamble byte: the texts are ASCII. -/

/-- Every byte is below 128. -/
def IsAscii (x : List Byte) : Prop := ∀ b ∈ x, b.toNat < 128

theorem IsAscii.append {x y : List Byte} (hx : IsAscii x) (hy : IsAscii y) : IsAscii (x ++ y) := fun b hb =>
  (List.mem_append.mp hb).elim (hx b) (hy b)

theorem IsAscii.nil : IsAscii [] := fun _ hb => absurd hb List.not_mem_nil

theorem IsAscii.cons {c : Byte} {x : List Byte} (hc : c.toNat < 128) (hx : IsAscii x) : IsAscii (c :: x) := fun b hb =>
  (List.mem_cons.mp hb).elim (fun he => he ▸ hc) (hx b)

theorem isAscii_dec (n : Nat) : IsAscii (dec n) := fun b hb => by
  have : 0x30 ≤ b.toNat ∧ b.toNat ≤ 0x39 := by simpa [isDigit] using isDigit_of_mem_dec hb
  omega

theorem isAscii_serArray (payload : List Byte) : IsAscii (serArray payload) := by
  induction payload with
  | nil => exact .nil
  | cons b payload ih =>
    cases payload with
    | nil => exact isAscii_dec b.toNat
    | cons c payload => exact (isAscii_dec b.toNat).append (.cons (by decide) ih)

theorem isAscii_kindTag (k : Kind) : IsAscii (quoted (kindTag k)) := by
  unfold IsAscii
  cases k <;> decide

theorem isAscii_serHeader (h : Header) : IsAscii (serHeader h) := by
  rw [serHeader_eq]
  have hkey : IsAscii [chLBrace] ∧ IsAscii [chComma] ∧ IsAscii (keyed keyVersion) ∧ IsAscii (keyed keyMessageType) ∧
      IsAscii (keyed keySequenceNumber) ∧ IsAscii (keyed keyTimestamp) ∧ IsAscii (keyed keyPayloadLength) := by
    unfold IsAscii
    decide
  obtain ⟨hbrace, hcomma, h1, h2, h3, h4, h5⟩ := hkey
  exact hbrace.append <| h1.append <| (isAscii_dec _).append <| .cons (by decide) <| h2.append <| (isAscii_kindTag _).append <|
    hcomma.append <| h3.append <| (isAscii_dec _).append <| .cons (by decide) <| h4.append <| (isAscii_dec _).append <|
    .cons (by decide) <| h5.append <| (isAscii_dec _).append <| .cons (by decide) .nil

theorem isAscii_serMessage (m : Message) : IsAscii (serMessage m) := by
  rw [serMessage_eq]
  have hkey : IsAscii [chLBrace] ∧ IsAscii [chComma] ∧ IsAscii [chLBracket] ∧ IsAscii (keyed keyHeader) ∧
      IsAscii (keyed keyPayload) ∧ IsAscii (keyed keyChecksum) := by
    unfold IsAscii
    decide
  obtain ⟨hbrace, hcomma, hbracket, h1, h2, h3⟩ := hkey
  exact hbrace.append <| h1.append <| (isAscii_serHeader _).append <| hcomma.append <| h2.append <| hbracket.append <|
    (isAscii_serArray _).append <| .cons (by decide) <| hcomma.append <| h3.append <| (isAscii_dec _).append <|
    .cons (by decide) .nil

end Sys2Proof.Machine

namespace Sys2Proof.Proofs
open Sys2Proof.Machine

/-- Settles O29: the sizes part by part, and the shortest each part can be. -/
theorem messageTextSize : Obligations.MessageTextSize := by
  unfold Obligations.MessageTextSize
  refine ⟨serHeader_length, serMessage_length, fun m hv => ?_⟩
  have hversion : (dec m.header.version.toNat).length = 1 := by rw [hv]; decide
  have hkind := three_le_kindTag_length m.header.kind
  have hseq := dec_length_pos m.header.sequenceNumber.toNat
  have htime := dec_length_pos m.header.timestamp.toNat
  have hlen := dec_length_pos m.header.payloadLength.toNat
  have hsum := dec_length_pos m.checksum.toNat
  rw [serMessage_length, serHeader_length]
  omega

/-- Settles O30: the text is read as its tokens, and these as the Message. -/
theorem deserialiseInvertsSerialise : Obligations.DeserialiseInvertsSerialise := by
  unfold Obligations.DeserialiseInvertsSerialise
  exact deserialise_serMessage

/-- Settles O31: a serialiser that can be read back is injective; a header is read back inside a Message. -/
theorem serialisersAreInjective : Obligations.SerialisersAreInjective := by
  unfold Obligations.SerialisersAreInjective
  have hinj : ∀ m m' : Message, serMessage m = serMessage m' → m = m' := fun m m' h => by
    have := deserialise_serMessage m
    rw [h, deserialise_serMessage m'] at this
    exact (Option.some.inj this).symm
  refine ⟨hinj, fun h h' heq => ?_⟩
  have := hinj ⟨h, [], 0#32⟩ ⟨h', [], 0#32⟩ (by simp only [serMessage, heq])
  exact congrArg Message.header this

end Sys2Proof.Proofs
end

-- ==== Proofs: 44_frame_decoder.md and 45_composition.md, byte strings and operations ====
section
/-!
SUPPORT. Proofs of the statements on byte strings fed to the frame decoder (44_frame_decoder.md R259, R260 (g); 45_composition.md R286), and
on the operations of FDEC and RX.RECV (40_config.md R138, 44_frame_decoder.md R240, R254, 45_composition.md R283, R284).
-/

-- One declaration after another: fewer threads, and so less memory, at a time.
set_option Elab.async false

namespace Sys2Proof.Machine

/-! Decoders that differ only in `CAP` (R260 (g)). -/

/-- Two decoders that agree in everything but what a search has kept, and there in the newest seven bytes. -/
def SameSearch (r r' : FdecRegs) : Prop :=
  r' = { r with buf := r'.buf } ∧ (r.tag ≠ .wp → r'.buf = r.buf) ∧ r.buf.reverse.take 7 = r'.buf.reverse.take 7

theorem SameSearch.refl (r : FdecRegs) : SameSearch r r := ⟨rfl, fun _ => rfl, rfl⟩

/-- Whether the kept bytes end in a preamble depends on the newest seven bytes and the new one. -/
theorem keptBytes_reverse_take {p : Params} (hcap : 16 ≤ p.cap) (buf : List Byte) (b : Byte) :
    (keptBytes p buf b).reverse.take 8 = b :: buf.reverse.take 7 := by
  obtain ⟨old, hold, -, hseven, -⟩ := keptBytes_eq hcap buf b
  rw [hold, List.reverse_append, List.reverse_singleton, List.singleton_append, List.take_succ_cons, hseven]

section
variable {p p' : Params} (hcap : 16 ≤ p.cap) (hcap' : 16 ≤ p'.cap) (hf : p.textFormat = p'.textFormat)
include hcap hcap' hf

/-- With at most one byte in the buffer, `CAP` plays no part. -/
theorem feedByte_of_short_eq {r : FdecRegs} (h : r.buf.length ≤ 1) (b : Byte) : feedByte p r b = feedByte p' r b := by
  simp only [feedByte, FdecRegs.append_of_short hcap b h, FdecRegs.append_of_short hcap' b h, hf]

/-- One byte keeps two sound decoders alike and makes them emit the same Messages. -/
theorem feedByte_sameSearch {r r' : FdecRegs} (h : FdecInv p r) (h' : FdecInv p' r') (hs : SameSearch r r') (b : Byte) :
    SameSearch (feedByte p r b).1 (feedByte p' r' b).1 ∧ (feedByte p r b).2.1 = (feedByte p' r' b).2.1 := by
  obtain ⟨heq, hbuf, hseven⟩ := hs
  by_cases htag : r.tag = .wp
  · obtain ⟨buf, op, rfl, hno⟩ | ⟨tag, buf, op, ht, rfl, -⟩ | ⟨len, pay, op, rfl, -⟩ | ⟨buf, len, pay, op, rfl, -⟩ := h.shape
    · obtain ⟨buf', rfl⟩ : ∃ buf', r' = ⟨.wp, buf', 0, [], op⟩ := ⟨r'.buf, heq⟩
      have hno' : ¬ HasPreamble buf' := h'.noPreamble rfl
      have hlast : (keptBytes p buf b).reverse.take 8 = (keptBytes p' buf' b).reverse.take 8 := by
        rw [keptBytes_reverse_take hcap, keptBytes_reverse_take hcap', show buf.reverse.take 7 = buf'.reverse.take 7 from hseven]
      by_cases hend : EndsInPreamble (keptBytes p buf b)
      · have hend' : EndsInPreamble (keptBytes p' buf' b) := hlast.symm.trans hend
        rw [feedByte_wp_found hcap buf b op hno hend, feedByte_wp_found hcap' buf' b op hno' hend']
        exact ⟨SameSearch.refl _, rfl⟩
      · have hend' : ¬ EndsInPreamble (keptBytes p' buf' b) := fun he => hend (hlast.trans he)
        rw [(feedByte_wp_none hcap buf b op hno hend).1, (feedByte_wp_none hcap' buf' b op hno' hend').1]
        refine ⟨⟨rfl, fun hne => absurd rfl hne, ?_⟩, rfl⟩
        have := congrArg (List.take 7) hlast
        simpa [List.take_take] using this
    · obtain rfl | rfl := ht <;> simp at htag
    · simp at htag
    · simp at htag
  · obtain rfl : r' = r := by rw [heq, hbuf htag]
    have hshort : r'.buf.length ≤ 1 := by
      cases ht : r'.tag with
      | wp => exact absurd ht htag
      | ws => exact h.shortBuf (.inl ht)
      | rl => exact h.shortBuf (.inr (.inl ht))
      | rm => simp [h.emptyBuf ht]
      | we => exact h.shortBuf (.inr (.inr ht))
    rw [feedByte_of_short_eq hcap hcap' hf hshort]
    exact ⟨SameSearch.refl _, rfl⟩

/-- Bytes keep two sound decoders alike and make them emit the same Messages. -/
theorem feedBytes_sameSearch {r r' : FdecRegs} (h : FdecInv p r) (h' : FdecInv p' r') (hs : SameSearch r r') (bytes : List Byte) :
    SameSearch (feedBytes p r bytes).1 (feedBytes p' r' bytes).1 ∧ (feedBytes p r bytes).2.1 = (feedBytes p' r' bytes).2.1 := by
  induction bytes generalizing r r' with
  | nil => exact ⟨hs, rfl⟩
  | cons b rest ih =>
    obtain ⟨hnext, hmsgs⟩ := feedByte_sameSearch hcap hcap' hf h h' hs b
    obtain ⟨hend, hrest⟩ := ih (feedByte_keeps_fdecInv hcap h b) (feedByte_keeps_fdecInv hcap' h' b) hnext
    exact ⟨hend, by simp only [feedBytes, hmsgs, hrest]⟩

end

/-! A frame, part by part. -/

section
variable {p : Params} (hcap : 16 ≤ p.cap) (op : Option FeedOp)
include hcap

/-- A payload byte after the other (R249), the last one of which completes it. -/
theorem feedBytes_payload (len : Nat) (pay rest : List Byte) (h : pay.length + rest.length = len) (hrest : rest ≠ []) :
    feedBytes p ⟨.rm, [], len, pay, op⟩ rest = (⟨.we, [], len, pay ++ rest, op⟩, [], []) := by
  induction rest generalizing pay with
  | nil => exact absurd rfl hrest
  | cons b rest ih =>
    simp only [List.length_cons] at h
    cases rest with
    | nil =>
      simp only [feedBytes, feedByte_rm_last hcap b len pay op (by simpa using h)]
      rfl
    | cons c rest =>
      rw [feedBytes, feedByte_rm_more hcap b len pay op (by simp at h; omega), ih (pay ++ [b]) (by simp at h ⊢; omega) (by simp)]
      simp

/-- Behind the preamble, the rest of a frame whose payload reads as a Message with a checksum that verifies emits this Message and
leaves a fresh decoder. -/
theorem feedBytes_frame_rest {text : List Byte} {m : Message} (h1 : 1 ≤ text.length) (h2 : text.length ≤ 1024)
    (hm : deserVerify p.textFormat text = .ok m) :
    (feedBytes p ⟨.ws, [], 0, [], op⟩ ((wrapFrame text).drop 8)).1 = ⟨.wp, [], 0, [], op⟩ ∧
      (feedBytes p ⟨.ws, [], 0, [], op⟩ ((wrapFrame text).drop 8)).2.1 = [m] := by
  have hlen : lengthOfBytes (BitVec.ofNat 8 (text.length / 256)) (BitVec.ofNat 8 (text.length % 256)) = text.length :=
    lengthOfBytes_ofNat (by omega)
  have hdrop : (wrapFrame text).drop 8 = 0x7E#8 :: 0x7E#8 :: BitVec.ofNat 8 (text.length / 256) ::
      BitVec.ofNat 8 (text.length % 256) :: (text ++ [0x7E#8, 0x7E#8]) := by
    rw [wrapFrame_eq_append]
    rfl
  have hlegal : 1 ≤ lengthOfBytes (BitVec.ofNat 8 (text.length / 256)) (BitVec.ofNat 8 (text.length % 256)) ∧
      lengthOfBytes (BitVec.ofNat 8 (text.length / 256)) (BitVec.ofNat 8 (text.length % 256)) ≤ 1024 := by
    rw [hlen]
    exact ⟨h1, h2⟩
  have hpay := feedBytes_payload hcap op text.length [] text (by simp) (List.ne_nil_of_length_pos h1)
  rw [hdrop]
  simp only [feedBytes, feedByte_first hcap _ _ _ _ (.inl rfl), feedByte_ws_delim hcap,
    feedByte_first hcap _ _ _ _ (.inr (.inl rfl)), feedByte_rl_legal hcap _ _ _ _ _ hlegal, hlen, feedBytes_append, hpay,
    List.nil_append, feedByte_first hcap _ _ _ _ (.inr (.inr rfl)), feedByte_we_ok hcap _ _ _ hm]
  exact ⟨trivial, rfl⟩

end

/-! A run of preamble bytes (R259). -/

/-- The decoder after `n` preamble bytes fed to a fresh one: eight of them are a preamble, the next two are no start delimiter, and the
search goes on with these. -/
def preambleRunState (n : Nat) (op : Option FeedOp) : FdecRegs :=
  if n % 8 = 0 ∧ 0 < n then ⟨.ws, [], 0, [], op⟩
  else if n % 8 = 1 ∧ 1 < n then ⟨.ws, [0xAA#8], 0, [], op⟩
  else ⟨.wp, List.replicate (n % 8) 0xAA#8, 0, [], op⟩

section
variable {p : Params} (hcap : 16 ≤ p.cap) (op : Option FeedOp)
include hcap

theorem keptBytes_of_short {buf : List Byte} (h : buf.length < 16) (b : Byte) : keptBytes p buf b = buf ++ [b] :=
  if_neg (by omega)

/-- The search takes the preamble byte number `k + 1`. -/
theorem feedByte_wp_run {k : Nat} (h : k < 8) :
    (feedByte p ⟨.wp, List.replicate k 0xAA#8, 0, [], op⟩ 0xAA#8).1 =
        (if k = 7 then ⟨.ws, [], 0, [], op⟩ else ⟨.wp, List.replicate (k + 1) 0xAA#8, 0, [], op⟩) ∧
      (feedByte p ⟨.wp, List.replicate k 0xAA#8, 0, [], op⟩ 0xAA#8).2.1 = [] := by
  have hno : ¬ HasPreamble (List.replicate k 0xAA#8) := (findPreamble_eq_none_iff _).mp (findPreamble_of_short (by simpa using h))
  have hkept : keptBytes p (List.replicate k 0xAA#8) 0xAA#8 = List.replicate (k + 1) 0xAA#8 := by
    rw [keptBytes_of_short hcap (by rw [List.length_replicate]; omega), List.replicate_succ']
  by_cases h7 : k = 7
  · have hend : EndsInPreamble (keptBytes p (List.replicate k 0xAA#8) 0xAA#8) := by
      rw [hkept, h7]
      rfl
    rw [feedByte_wp_found hcap _ _ op hno hend, if_pos h7]
    exact ⟨rfl, rfl⟩
  · have hend : ¬ EndsInPreamble (keptBytes p (List.replicate k 0xAA#8) 0xAA#8) := by
      rw [hkept]
      intro he
      have := congrArg List.length he
      simp at this
      omega
    rw [(feedByte_wp_none hcap _ _ op hno hend).1, if_neg h7, hkept]
    exact ⟨rfl, rfl⟩

/-- One more preamble byte. -/
theorem feedByte_preambleRunState (n : Nat) :
    (feedByte p (preambleRunState n op) 0xAA#8).1 = preambleRunState (n + 1) op ∧
      (feedByte p (preambleRunState n op) 0xAA#8).2.1 = [] := by
  by_cases h0 : n % 8 = 0 ∧ 0 < n
  · rw [preambleRunState, if_pos h0, feedByte_first hcap _ _ _ _ (.inl rfl), preambleRunState, if_neg (by omega), if_pos (by omega)]
    exact ⟨rfl, rfl⟩
  · by_cases h1 : n % 8 = 1 ∧ 1 < n
    · have hmod : (n + 1) % 8 = 2 := by omega
      rw [preambleRunState, if_neg h0, if_pos h1, feedByte_ws_mismatch hcap _ _ _ _ _ (by decide), preambleRunState,
        if_neg (by omega), if_neg (by omega), hmod]
      exact ⟨rfl, rfl⟩
    · obtain ⟨hregs, hmsgs⟩ := feedByte_wp_run hcap op (show n % 8 < 8 by omega)
      rw [preambleRunState, if_neg h0, if_neg h1]
      refine ⟨?_, hmsgs⟩
      rw [hregs, preambleRunState]
      by_cases h7 : n % 8 = 7
      · rw [if_pos h7, if_pos (by omega)]
      · rw [if_neg h7, if_neg (by omega), if_neg (by omega), show (n + 1) % 8 = n % 8 + 1 by omega]

/-- A run of preamble bytes fed to a fresh decoder. -/
theorem feedBytes_replicate_preamble (n : Nat) :
    (feedBytes p ⟨.wp, [], 0, [], op⟩ (List.replicate n 0xAA#8)).1 = preambleRunState n op ∧
      (feedBytes p ⟨.wp, [], 0, [], op⟩ (List.replicate n 0xAA#8)).2.1 = [] := by
  induction n with
  | zero => exact ⟨rfl, rfl⟩
  | succ n ih =>
    obtain ⟨hregs, hmsgs⟩ := feedByte_preambleRunState hcap op n
    rw [List.replicate_succ', feedBytes_append, ih.1, ih.2]
    exact ⟨hregs, by simpa [feedBytes] using hmsgs⟩

/-- A search in which no preamble turns up emits nothing. -/
theorem feedBytes_wp_quiet (buf bytes : List Byte) (h : ¬ HasPreamble (buf ++ bytes)) :
    (feedBytes p ⟨.wp, buf, 0, [], op⟩ bytes).2.1 = [] := by
  induction bytes generalizing buf with
  | nil => rfl
  | cons b rest ih =>
    obtain ⟨old, hold, hsuf, -, -⟩ := keptBytes_eq hcap buf b
    have hsub : keptBytes p buf b ++ rest <:+: buf ++ b :: rest := by
      obtain ⟨front, rfl⟩ := hsuf
      exact ⟨front, [], by simp [hold]⟩
    have hno : ¬ HasPreamble buf := fun hp => h (hp.mono (List.prefix_append _ _).isInfix)
    have hend : ¬ EndsInPreamble (keptBytes p buf b) := fun he =>
      h (he.hasPreamble.mono ((List.prefix_append _ _).isInfix.trans hsub))
    rw [feedBytes, (feedByte_wp_none hcap buf b op hno hend).1]
    exact ih _ fun hp => h (hp.mono hsub)

end

/-! No preamble in the rest of a frame behind a broken run. -/

/-- A byte that is no preamble byte keeps a preamble out of the place where it stands. -/
theorem HasPreamble.of_append_cons {x y : List Byte} {b : Byte} (hb : b ≠ 0xAA#8) (h : HasPreamble (x ++ b :: y)) :
    HasPreamble x ∨ HasPreamble y := by
  obtain h | h | ⟨l, l', hl, hsuf, hpre⟩ := List.infix_append_iff.mp h
  · exact .inl h
  · obtain h | h := List.infix_cons_iff.mp h
    · obtain ⟨t, ht⟩ := h
      exact absurd (List.cons.inj ht).1.symm hb
    · exact .inr h
  · cases l' with
    | nil =>
      rw [List.append_nil] at hl
      exact .inl (by rw [HasPreamble, hl]; exact hsuf.isInfix)
    | cons c l' =>
      obtain ⟨t, ht⟩ := hpre
      have hc : c ∈ List.replicate Config.preambleLen Config.preambleByte := hl ▸ by simp
      exact absurd ((List.cons.inj ht).1.symm.trans (List.eq_of_mem_replicate hc)) hb

theorem not_hasPreamble_of_count {x : List Byte} (h : x.count 0xAA#8 < 8) : ¬ HasPreamble x := fun hp => by
  have := hp.sublist.count_le 0xAA#8
  rw [show Config.preambleByte = 0xAA#8 from rfl, List.count_replicate_self] at this
  exact absurd this (by simp only [Config.preambleLen]; omega)

/-- A frame's length field and a text without preamble bytes hold no preamble. -/
theorem not_hasPreamble_frame_tail {text : List Byte} (h : IsAscii text) :
    ¬ HasPreamble (0x7E#8 :: (bytesOfLength text.length ++ (text ++ [0x7E#8, 0x7E#8]))) := by
  have htext : text.count 0xAA#8 = 0 := List.count_eq_zero.mpr fun hm => absurd (h _ hm) (by decide)
  refine not_hasPreamble_of_count (Nat.lt_of_le_of_lt (m := 2) ?_ (by decide))
  have hfield : (bytesOfLength text.length).count 0xAA#8 ≤ 2 := List.count_le_length
  rw [List.count_cons_of_ne (by decide), List.count_append, List.count_append, htext]
  simpa using hfield

/-- Behind a run that is no whole number of preambles, the rest of a frame with an ASCII text emits nothing. -/
theorem feedBytes_broken_run {p : Params} (hcap : 16 ≤ p.cap) (op : Option FeedOp) {n : Nat} (hn : ¬ (0 < n ∧ n % 8 = 0))
    {text : List Byte} (htext : IsAscii text) :
    (feedBytes p (preambleRunState n op) ((wrapFrame text).drop 8)).2.1 = [] := by
  have htail := not_hasPreamble_frame_tail htext
  have hquiet {k : Nat} (hk : k < 8) : ¬ HasPreamble (List.replicate k 0xAA#8 ++
      0x7E#8 :: (0x7E#8 :: (bytesOfLength text.length ++ (text ++ [0x7E#8, 0x7E#8])))) := fun hp =>
    (hp.of_append_cons (by decide)).elim (not_hasPreamble_of_count (by simpa using hk)) htail
  have hdrop : (wrapFrame text).drop 8 = 0x7E#8 :: (0x7E#8 :: (bytesOfLength text.length ++ (text ++ [0x7E#8, 0x7E#8]))) := by
    rw [wrapFrame_eq_append]
    rfl
  rw [hdrop, preambleRunState, if_neg (by omega)]
  by_cases h1 : n % 8 = 1 ∧ 1 < n
  · rw [if_pos h1, feedBytes, feedByte_ws_mismatch hcap _ _ _ _ _ (by decide)]
    exact feedBytes_wp_quiet hcap op [0xAA#8, 0x7E#8] _ (hquiet (k := 1) (by decide))
  · rw [if_neg h1]
    exact feedBytes_wp_quiet hcap op _ _ (hquiet (by omega))

/-- Behind whole preambles, the rest of a frame is decoded. -/
theorem feedBytes_whole_run {p : Params} (hcap : 16 ≤ p.cap) (op : Option FeedOp) {n : Nat} (hn : 0 < n ∧ n % 8 = 0)
    {text : List Byte} {m : Message} (h1 : 1 ≤ text.length) (h2 : text.length ≤ 1024) (hm : deserVerify p.textFormat text = .ok m) :
    (feedBytes p ⟨.wp, [], 0, [], op⟩ (List.replicate n 0xAA#8 ++ (wrapFrame text).drop 8)).1 = ⟨.wp, [], 0, [], op⟩ ∧
      (feedBytes p ⟨.wp, [], 0, [], op⟩ (List.replicate n 0xAA#8 ++ (wrapFrame text).drop 8)).2.1 = [m] := by
  obtain ⟨hregs, hmsgs⟩ := feedBytes_replicate_preamble hcap op n
  have hrun : preambleRunState n op = ⟨.ws, [], 0, [], op⟩ := if_pos ⟨hn.2, hn.1⟩
  obtain ⟨hend, hemit⟩ := feedBytes_frame_rest hcap op h1 h2 hm
  simp only [feedBytes_append, hregs, hmsgs, hrun, hend, hemit, List.nil_append, and_self]

/-- A frame is its preamble and the rest. -/
theorem wrapFrame_eq_run (text : List Byte) : wrapFrame text = List.replicate 8 0xAA#8 ++ (wrapFrame text).drop 8 := by
  conv_lhs => rw [wrapFrame_eq_append]
  rw [wrapFrame_eq_append]
  rfl

/-! The operations of FDEC. -/

theorem State.fed_eq (s : State) (chunk : List Byte) : s.fed chunk = { s with
    fdec := (feedBytes s.params s.fdec chunk).1
    dbgOut := if s.params.debugEvents then s.dbgOut ++ (feedBytes s.params s.fdec chunk).2.2 else s.dbgOut
    rspOut := s.rspOut ++ [{ status := .ok, value := .messages (feedBytes s.params s.fdec chunk).2.1 }] } := by
  simp [State.fed, State.postEvents_eq, State.respond]

theorem exec_fdecInit_of_idle {s : State} (hfdec : s.fdec.op = none) (hdem : s.dem.op = none) :
    exec .fdecInit s = .next ({ s with fdec := FdecRegs.reset }.ok .none) := by
  simp [exec, execFdecInit, State.fdecBusy_of_idle hfdec hdem]

/-- With turns scheduled an accepted chunk that is not empty is in progress. -/
theorem exec_fdecFeed_of_scheduled {s : State} (hfdec : s.fdec.op = none) (hdem : s.dem.op = none) (hs : s.sched ≠ [])
    {chunk : List Byte} (hc : chunk ≠ []) :
    exec (.fdecFeed chunk) s = .next { s with fdec := { s.fdec with op := some { rest := chunk, out := [] } } } := by
  obtain ⟨b, rest, rfl⟩ := List.exists_cons_of_ne_nil hc
  have hne : s.sched.isEmpty = false := by simpa using hs
  simp [exec, execFdecFeed, State.fdecBusy_of_idle hfdec hdem, State.startFeed, State.feedComplete, hne]

theorem exec_fdecDeser_ok {s : State} (hfdec : s.fdec.op = none) (hdem : s.dem.op = none) {text : List Byte} {m : Message}
    (h : deserVerify s.params.textFormat text = .ok m) : exec (.fdecDeser text) s = .next (s.ok (.message m)) := by
  simp [exec, execFdecDeser, State.fdecBusy_of_idle hfdec hdem, h]

theorem exec_fdecDeser_error {s : State} (hfdec : s.fdec.op = none) (hdem : s.dem.op = none) {text : List Byte} {sub : Subcause}
    (h : deserVerify s.params.textFormat text = .error sub) :
    exec (.fdecDeser text) s = .next (s.refuse (.frameCorrupt sub)) := by
  simp [exec, execFdecDeser, State.fdecBusy_of_idle hfdec hdem, h]

/-- A turn of FDEC with a feed in progress: one byte. -/
theorem State.feedConsume_eq {s : State} {b : Byte} {rest : List Byte} {out : List Message}
    (h : s.fdec.op = some { rest := b :: rest, out := out }) :
    s.feedConsume =
      if rest = [] then { s with
        fdec := { (feedByte s.params s.fdec b).1 with op := none }
        dbgOut := if s.params.debugEvents then s.dbgOut ++ (feedByte s.params s.fdec b).2.2 else s.dbgOut
        rspOut := s.rspOut ++ [{ status := .ok, value := .messages (out ++ (feedByte s.params s.fdec b).2.1) }] }
      else { s with
        fdec := { (feedByte s.params s.fdec b).1 with op := some { rest := rest, out := out ++ (feedByte s.params s.fdec b).2.1 } }
        dbgOut := if s.params.debugEvents then s.dbgOut ++ (feedByte s.params s.fdec b).2.2 else s.dbgOut } := by
  cases rest <;> simp [State.feedConsume, h, State.feedComplete, State.postEvents_eq, State.respond]

/-! The receive pipeline. -/

/-- What RX.RECV does with samples taken from `pcm_in` but for the operation in progress: DEM and FDEC work on them, and the Messages go
out (R283). -/
def State.received (s : State) (taken : List Sample) (op : Nat → Option DemOp) : State :=
  { s with
    pcmIn := s.pcmIn.drop taken.length
    dem := { (s.dem.pushSamples s.params s.cfg taken).2 with
      op := op (feedBytes s.params s.fdec (s.dem.pushSamples s.params s.cfg taken).1).2.1.length }
    fdec := (feedBytes s.params s.fdec (s.dem.pushSamples s.params s.cfg taken).1).1
    msgOut := s.msgOut ++ (feedBytes s.params s.fdec (s.dem.pushSamples s.params s.cfg taken).1).2.1
    dbgOut := if s.params.debugEvents then s.dbgOut ++ (feedBytes s.params s.fdec (s.dem.pushSamples s.params s.cfg taken).1).2.2
      else s.dbgOut }

/-- The Messages among the samples taken. -/
def State.sentBy (s : State) (taken : List Sample) : Nat :=
  (feedBytes s.params s.fdec (s.dem.pushSamples s.params s.cfg taken).1).2.1.length

/-- The same state with another DEM operation in progress. -/
def State.withDemOp (s : State) (o : Option DemOp) : State := { s with dem := { s.dem with op := o } }

theorem State.withDemOp_self (s : State) : s.withDemOp s.dem.op = s := rfl

/-- What is received does not depend on the operation in progress. -/
theorem State.received_withDemOp (s : State) (o : Option DemOp) (taken : List Sample) (op : Nat → Option DemOp) :
    (s.withDemOp o).received taken op = s.received taken op := by
  simp only [State.received, State.withDemOp, DemRegs.pushSamples_withOp]

theorem State.sentBy_withDemOp (s : State) (o : Option DemOp) (taken : List Sample) : (s.withDemOp o).sentBy taken = s.sentBy taken := by
  simp only [State.sentBy, State.withDemOp, DemRegs.pushSamples_withOp]

/-- A free core with a session accepts an RX.RECV. -/
theorem exec_rxRecv_of_idle {s : State} (hdem : s.dem.op = none) (hfdec : s.fdec.op = none) (hvalid : s.cfg.demValid = true)
    (count : Nat) : exec (.rxRecv count) s = .next (s.startRecv count) := by
  simp [exec, execRxRecv, State.demBusy, State.fdecBusy, hdem, hfdec, hvalid]

/-- In serial execution an accepted RX.RECV that asks for samples takes those there. -/
theorem State.startRecv_of_pos {s : State} (hs : s.sched = []) {count : Nat} (hpos : 0 < count) :
    s.startRecv count = (s.withDemOp (some (.recv count 0))).recvConsumeAll (min count s.pcmIn.length) := by
  obtain ⟨k, rfl⟩ : ∃ k, count = k + 1 := ⟨count - 1, by omega⟩
  have hempty : s.sched.isEmpty = true := by rw [hs]; rfl
  simp only [State.startRecv, State.demComplete, State.withDemOp, hempty, if_true]

/-- An RX.RECV in progress goes on with the samples there. -/
theorem State.demFinish_recv {s : State} {left sent : Nat} (h : s.dem.op = some (.recv left sent)) :
    s.demFinish = s.recvConsumeAll (min left s.pcmIn.length) := by
  rw [State.demFinish, h]

/-- One that asks for none answers at once. -/
theorem State.startRecv_zero {s : State} (hs : s.sched = []) (hdem : s.dem.op = none) :
    s.startRecv 0 = s.respond .ok (.count 0) := by
  have hself : s.withDemOp none = s := by rw [← hdem, State.withDemOp_self]
  have hrun : s.startRecv 0 = (s.withDemOp none).respond .ok (.count 0) := by
    have hempty : s.sched.isEmpty = true := by rw [hs]; rfl
    simp only [State.startRecv, hempty, if_true]
    rw [show Nat.min 0 s.pcmIn.length = 0 from Nat.zero_min _]
    rfl
  rw [hrun, hself]

/-- An RX.RECV in progress whose samples are all there takes them and answers. -/
theorem State.recvConsumeAll_enough {s : State} {left sent : Nat} (h : s.dem.op = some (.recv left sent)) (hx : s.rxBytes = [])
    (hl : 0 < left) (hp : left ≤ s.pcmIn.length) :
    s.recvConsumeAll left = { s.received (s.pcmIn.take left) (fun _ => none) with
      rspOut := s.rspOut ++ [{ status := .ok, value := .count (sent + s.sentBy (s.pcmIn.take left)) }] } := by
  rw [State.recvConsumeAll_eq left left sent s h hx hl le_rfl hp]
  simp [State.received, State.sentBy, Nat.min_eq_left hp]

/-- An RX.RECV in progress that takes fewer samples than are left for it stays in progress. -/
theorem State.recvConsumeAll_some {s : State} {k left sent : Nat} (h : s.dem.op = some (.recv left sent)) (hx : s.rxBytes = [])
    (hk : k < left) (hp : k ≤ s.pcmIn.length) :
    s.recvConsumeAll k = s.received (s.pcmIn.take k) (fun n => some (.recv (left - k) (sent + n))) := by
  rw [State.recvConsumeAll_eq k left sent s h hx (by omega) (by omega) hp]
  simp [State.received, Nat.min_eq_left hp, show k ≠ left by omega]

end Sys2Proof.Machine

namespace Sys2Proof.Proofs
open Sys2Proof.Machine

/-- Settles O56: two fresh decoders search alike, and every byte keeps them so. -/
theorem capDoesNotMatter : Obligations.CapDoesNotMatter := by
  unfold Obligations.CapDoesNotMatter
  intro p p' bytes hcap hcap' hf
  obtain ⟨⟨heq, hbuf, -⟩, hmsgs⟩ :=
    feedBytes_sameSearch hcap hcap' hf (FdecInv.fresh (op := none)) (FdecInv.fresh (op := none)) (SameSearch.refl _) bytes
  refine ⟨hmsgs, ?_, ?_, ?_, fun htag => (hbuf htag).symm⟩
  · exact (congrArg FdecRegs.tag heq).symm
  · exact (congrArg FdecRegs.len heq).symm
  · exact (congrArg FdecRegs.pay heq).symm

/-- Settles O57: whole preambles leave the decoder behind a preamble; any other run leaves a search that finds none in an ASCII text. -/
theorem preambleRunDecodes : Obligations.PreambleRunDecodes := by
  unfold Obligations.PreambleRunDecodes
  intro p m n hcap hread hverify h1 h2
  refine ⟨fun hpos hmod => ?_, fun hn hf => ?_⟩
  · have hok : deserVerify p.textFormat (serText p.textFormat m) = .ok m := (deserVerify_eq_ok_iff _ _ _).mpr ⟨hread, hverify⟩
    exact (feedBytes_whole_run hcap none ⟨hpos, hmod⟩ h1 h2 hok).2
  · obtain ⟨hregs, hmsgs⟩ := feedBytes_replicate_preamble hcap none n
    have htext : IsAscii (serText p.textFormat m) := by
      rw [hf]
      exact isAscii_serMessage m
    have hrest := feedBytes_broken_run hcap none hn htext
    have hreset : FdecRegs.reset = ⟨.wp, [], 0, [], none⟩ := rfl
    simp only [hreset, feedBytes_append, hregs, hmsgs, hrest, List.append_nil]

/-- Settles O58: the frame is one preamble and its rest. -/
theorem encodedFrameIsDecoded : Obligations.EncodedFrameIsDecoded := by
  unfold Obligations.EncodedFrameIsDecoded
  intro s m hcap hfresh hdem hsched hread hverify h1 h2
  have hok : deserVerify s.params.textFormat (serText s.params.textFormat m) = .ok m :=
    (deserVerify_eq_ok_iff _ _ _).mpr ⟨hread, hverify⟩
  obtain ⟨hregs, hmsgs⟩ := feedBytes_whole_run hcap none (n := 8) (by decide) h1 h2 hok
  rw [← wrapFrame_eq_run] at hregs hmsgs
  have hreset : FdecRegs.reset = ⟨.wp, [], 0, [], none⟩ := rfl
  have hop : s.fdec.op = none := by rw [hfresh]; rfl
  refine ⟨?_, s.fed (wrapFrame (serText s.params.textFormat m)), exec_fdecFeed_of_idle hop hdem hsched _, ?_, ?_⟩
  · have hfits : fitsEnvelope (serText s.params.textFormat m) = true := decide_eq_true h2
    simp [exec, execFencEncode, State.answerFrame, hfits, State.respond]
  · rw [State.fed_fdec, hfresh, hreset, hregs]
  · rw [State.fed_rspOut, hfresh, hreset, hmsgs]

/-- Settles O54: each request of a free FDEC, a turn of FDEC, and a feed in progress that runs to its end. -/
theorem frameDecoderCompletes : Obligations.FrameDecoderCompletes := by
  unfold Obligations.FrameDecoderCompletes
  intro s chunk text debug
  refine ⟨fun hfdec hdem => ⟨?_, fun hs => ?_, fun hs hc => ?_, fun m hm hv => ?_, fun m hm hv => ?_, fun hn => ?_⟩,
    fun b rest out ts hop hs => ⟨fun hr => ?_, fun hr => ?_⟩, fun out hop hc hs hcmd hmod hdem => ?_⟩
  · exact exec_fdecInit_of_idle hfdec hdem
  · rw [exec_fdecFeed_of_idle hfdec hdem hs, State.fed_eq]
  · exact exec_fdecFeed_of_scheduled hfdec hdem hs hc
  · exact exec_fdecDeser_ok hfdec hdem (deserVerify_of_verifies hm hv)
  · exact exec_fdecDeser_error hfdec hdem (deserVerify_of_wrong_checksum hm hv)
  · exact exec_fdecDeser_error hfdec hdem (deserVerify_of_none hn)
  · simp only [step, hs, State.turn]
    rw [State.feedConsume_eq (s := { s with sched := ts }) hop, if_neg hr]
  · simp only [step, hs, State.turn]
    rw [State.feedConsume_eq (s := { s with sched := ts }) hop, if_pos hr]
  · rw [step_of_no_request hs hcmd, State.finishAll, State.modFinish_of_idle hmod, State.demFinish_of_idle hdem, State.feedFinish, hop]
    exact congrArg _ (State.feedConsumeAll_eq _ s chunk out hop hc le_rfl)

/-- Settles O59: the samples are there, so RX.RECV takes them all and answers; with none to take it answers at once. -/
theorem rxRecvIsPushThenFeed : Obligations.RxRecvIsPushThenFeed := by
  unfold Obligations.RxRecvIsPushThenFeed
  intro s count hdem hfdec hvalid hs hrx hcount pushed fed
  rw [exec_rxRecv_of_idle hdem hfdec hvalid]
  rcases Nat.eq_zero_or_pos count with rfl | hpos
  · rw [State.startRecv_zero hs hdem]
    simp [pushed, fed, DemRegs.pushSamples, feedBytes, State.respond]
  · have hop : pushed.2.op = none := (DemRegs.pushSamples_op ..).trans hdem
    have hpushed : { pushed.2 with op := none } = pushed.2 := by rw [← hop]
    rw [State.startRecv_of_pos hs hpos, Nat.min_eq_left hcount,
      State.recvConsumeAll_enough (s := s.withDemOp (some (.recv count 0))) rfl hrx hpos hcount]
    rw [State.received_withDemOp, State.sentBy_withDemOp, Nat.zero_add, State.received]
    simp only [State.withDemOp, List.length_take, Nat.min_eq_left hcount]
    refine congrArg Host.Outcome.next ?_
    rw [State.mk.injEq]
    exact ⟨rfl, rfl, rfl, hpushed, rfl, rfl, rfl, rfl, rfl, rfl, rfl, rfl, rfl, rfl, rfl, rfl⟩

/-- Settles O60: fewer samples than asked for leave the operation in progress, enough of them end it, and a turn takes one. -/
theorem rxRecvWaitsForSamples : Obligations.RxRecvWaitsForSamples := by
  unfold Obligations.RxRecvWaitsForSamples
  intro s hrx hfdec after sentBy
  refine ⟨fun count hdem hvalid hs hfew => ?_, fun left sent hop hpos hs hcmd hmod => ?_, fun left sent ts hop hs => ?_⟩
  · rw [exec_rxRecv_of_idle hdem hfdec hvalid, State.startRecv_of_pos hs (by omega), Nat.min_eq_right (by omega),
      State.recvConsumeAll_some (s := s.withDemOp (some (.recv count 0))) rfl hrx hfew le_rfl, State.received_withDemOp]
    simp only [State.withDemOp, List.take_length, Nat.zero_add]
    rfl
  · have hfinish : step s = .next ((s.recvConsumeAll (min left s.pcmIn.length)).feedFinish) := by
      rw [step_of_no_request hs hcmd, State.finishAll, State.modFinish_of_idle hmod, State.demFinish_recv hop]
    rw [hfinish]
    refine ⟨fun hfew => ?_, fun henough => ?_⟩
    · rw [Nat.min_eq_right (by omega), State.recvConsumeAll_some hop hrx hfew le_rfl, List.take_length,
        State.feedFinish_of_idle (by simp [State.received, hfdec])]
      rfl
    · rw [Nat.min_eq_left henough, State.recvConsumeAll_enough hop hrx hpos henough,
        State.feedFinish_of_idle (by simp [State.received, hfdec])]
      rfl
  · have hturn : step s = .next ({ s with sched := ts } : State).recvConsume := by
      simp only [step, hs, State.turn, State.demStep, hop]
    have hone : ({ s with sched := ts } : State).recvConsume = ({ s with sched := ts } : State).recvConsumeAll 1 := rfl
    rw [hturn]
    refine ⟨fun hin => ?_, fun x xs hin hl => ?_, fun x xs hin hl => ?_⟩
    · simp [State.recvConsume, hop, hin]
    · have hlen : 1 ≤ s.pcmIn.length := by rw [hin]; simp
      have htake : s.pcmIn.take 1 = [x] := by rw [hin]; rfl
      rw [hone, State.recvConsumeAll_some (s := { s with sched := ts }) hop hrx (show 1 < left + 1 by omega) hlen]
      simp only [htake]
      rfl
    · subst hl
      have hlen : 0 + 1 ≤ s.pcmIn.length := by rw [hin]; simp
      have htake : s.pcmIn.take (0 + 1) = [x] := by rw [hin]; rfl
      rw [hone, State.recvConsumeAll_enough (s := { s with sched := ts }) hop hrx (by decide) hlen]
      simp only [htake]
      rfl

end Sys2Proof.Proofs
end

-- ==== Proofs: 43_frame_encoder.md, bursts and the pure operations ====
section
/-!
SUPPORT. Proofs of the statements on 43_frame_encoder.md: the bursts the CRC detects (R203), and the operations of CRC, MSG and FENC
(R200, R205, R206, R215 to R218).
-/

-- One declaration after another: fewer threads, and so less memory, at a time.
set_option Elab.async false

namespace Sys2Proof.Machine

/-! The register, bit by bit (20_memory.md R69): XOR into bit 0, then one round. -/

/-- One bit enters the register. -/
def crcBit (c : Word32) (x : Bool) : Word32 := crcRound (c ^^^ (BitVec.ofBool x).setWidth 32)

/-- The bits of a byte in the order they enter the register. -/
def bitsOfByte (b : Byte) : List Bool := (List.range 8).map b.getLsbD

/-- The bits of a byte string in the order they enter the register. -/
def bitsOf (bytes : List Byte) : List Bool := bytes.flatMap bitsOfByte

/-- A word with the given bits, the first one lowest. -/
def packBits : List Bool → Word32
  | [] => 0#32
  | x :: xs => (BitVec.ofBool x).setWidth 32 ^^^ (packBits xs <<< 1)

theorem packBits_getLsbD (xs : List Bool) {i : Nat} (h : i < 32) : (packBits xs).getLsbD i = xs.getD i false := by
  induction xs generalizing i with
  | nil => simp [packBits]
  | cons x xs ih =>
    cases i with
    | zero => simp [packBits]
    | succ i =>
      rw [List.getD_cons_succ, ← ih (by omega)]
      simp only [packBits, BitVec.getLsbD_xor, BitVec.getLsbD_setWidth, BitVec.getLsbD_shiftLeft, BitVec.getLsbD_ofBool]
      simp [h, BitVec.getLsbD_eq_getElem (show i < 32 by omega)]

/-- Undoing a shift that loses nothing. -/
theorem crcRound_shiftLeft {c : Word32} (h : c.getLsbD 31 = false) : crcRound (c <<< 1) = c := by
  have hlow : (c <<< 1).getLsbD 0 = false := by simp
  rw [crcRound, if_neg (by simp)]
  apply BitVec.eq_of_getLsbD_eq
  intro i hi
  rcases Nat.lt_or_ge i 31 with hlt | hge
  · simp [Nat.add_comm 1 i]
    omega
  · obtain rfl : i = 31 := by omega
    rw [h]
    simp

/-- At most 32 bits that enter one after the other are one word that enters at once, and as many rounds. -/
theorem foldl_crcBit (c : Word32) {xs : List Bool} (h : xs.length ≤ 32) :
    xs.foldl crcBit c = crcRound^[xs.length] (c ^^^ packBits xs) := by
  induction xs generalizing c with
  | nil => simp [packBits]
  | cons x xs ih =>
    simp only [List.length_cons] at h
    have htop : (packBits xs).getLsbD 31 = false := by
      rw [packBits_getLsbD xs (by decide), List.getD_eq_default _ _ (by omega)]
    rw [List.foldl_cons, ih _ (by omega), List.length_cons, Function.iterate_succ_apply, packBits, ← BitVec.xor_assoc, crcRound_xor,
      crcRound_shiftLeft htop, crcBit]

theorem bitsOfByte_length (b : Byte) : (bitsOfByte b).length = 8 := by simp [bitsOfByte]

theorem bitsOfByte_getD (b : Byte) {i : Nat} (h : i < 8) : (bitsOfByte b).getD i false = b.getLsbD i := by
  simp [bitsOfByte, List.getD, h]

theorem packBits_bitsOfByte (b : Byte) : packBits (bitsOfByte b) = b.setWidth 32 := by
  apply BitVec.eq_of_getLsbD_eq
  intro i hi
  rw [packBits_getLsbD _ hi, BitVec.getLsbD_setWidth]
  rcases Nat.lt_or_ge i 8 with h | h
  · rw [bitsOfByte_getD b h]
    simp [hi]
  · rw [List.getD_eq_default _ _ (by rw [bitsOfByte_length]; exact h), BitVec.getLsbD_of_ge _ _ h]
    simp

/-- A byte enters the register as its eight bits. -/
theorem crcByte_eq_foldl (c : Word32) (b : Byte) : crcByte c b = (bitsOfByte b).foldl crcBit c := by
  rw [foldl_crcBit _ (by rw [bitsOfByte_length]; decide), bitsOfByte_length, packBits_bitsOfByte, crcByte_eq_iterate]

/-- A byte string enters the register as its bits. -/
theorem crcUpdate_eq_foldl_bits (c : Word32) (bytes : List Byte) : crcUpdate c bytes = (bitsOf bytes).foldl crcBit c := by
  rw [crcUpdate_eq_foldl]
  induction bytes generalizing c with
  | nil => rfl
  | cons b rest ih =>
    have hbits : bitsOf (b :: rest) = bitsOfByte b ++ bitsOf rest := rfl
    rw [List.foldl_cons, ih, hbits, List.foldl_append, ← crcByte_eq_foldl]

theorem bitsOf_getD (bytes : List Byte) (j : Nat) : (bitsOf bytes).getD j false = (bytes.getD (j / 8) 0#8).getLsbD (j % 8) := by
  induction bytes generalizing j with
  | nil => simp [bitsOf]
  | cons b rest ih =>
    rw [bitsOf, List.flatMap_cons]
    rcases Nat.lt_or_ge j 8 with h | h
    · rw [List.getD_append _ _ _ _ (by rw [bitsOfByte_length]; exact h), bitsOfByte_getD b h, Nat.div_eq_of_lt h, Nat.mod_eq_of_lt h]
      rfl
    · obtain ⟨i, rfl⟩ : ∃ i, j = 8 + i := ⟨j - 8, by omega⟩
      have hi := ih i
      rw [bitsOf] at hi
      rw [List.getD_append_right _ _ _ _ (by rw [bitsOfByte_length]; exact h), bitsOfByte_length, Nat.add_sub_cancel_left, hi,
        show (8 + i) / 8 = i / 8 + 1 by omega, show (8 + i) % 8 = i % 8 by omega]
      rfl

/-! A round loses nothing. -/

theorem crcRound_zero : crcRound 0#32 = 0#32 := by decide

theorem crcRound_iterate_zero (n : Nat) : crcRound^[n] 0#32 = 0#32 := Function.iterate_fixed crcRound_zero n

/-- The bit that leaves the register comes back as its top bit. -/
theorem crcRound_getLsbD_top (c : Word32) : (crcRound c).getLsbD 31 = c.getLsbD 0 := by
  rw [crcRound_eq_xor]
  cases h : c.getLsbD 0 <;> simp [Config.crcPoly]

theorem eq_zero_of_crcRound_eq_zero {c : Word32} (h : crcRound c = 0#32) : c = 0#32 := by
  have hlow : c.getLsbD 0 = false := by rw [← crcRound_getLsbD_top, h]; rfl
  have hshift : c >>> 1 = 0#32 := by rwa [crcRound, if_neg (by rw [hlow]; decide)] at h
  apply BitVec.eq_of_getLsbD_eq
  intro i hi
  cases i with
  | zero => simpa using hlow
  | succ i =>
    have := congrArg (fun w : Word32 => w.getLsbD i) hshift
    simpa [Nat.add_comm 1 i] using this

theorem eq_zero_of_crcRound_iterate_eq_zero {n : Nat} {c : Word32} (h : crcRound^[n] c = 0#32) : c = 0#32 := by
  induction n generalizing c with
  | zero => exact h
  | succ n ih => exact eq_zero_of_crcRound_eq_zero (ih h)

/-- Bits that are 0 are rounds. -/
theorem foldl_crcBit_of_all_false (c : Word32) {xs : List Bool} (h : ∀ x ∈ xs, x = false) :
    xs.foldl crcBit c = crcRound^[xs.length] c := by
  induction xs generalizing c with
  | nil => rfl
  | cons x xs ih =>
    have hx : x = false := h x List.mem_cons_self
    rw [List.foldl_cons, ih _ fun y hy => h y (List.mem_cons_of_mem x hy), List.length_cons, Function.iterate_succ_apply, crcBit, hx]
    simp

/-- A burst of bits inside 32 places leaves a register that was 0 different from 0. -/
theorem foldl_crcBit_burst_ne_zero {xs : List Bool} {k : Nat} (hburst : ∀ j, xs.getD j false = true → k ≤ j ∧ j < k + 32)
    (hsome : ∃ j, xs.getD j false = true) : xs.foldl crcBit 0#32 ≠ 0#32 := by
  have hfalse {ys : List Bool} (h : ∀ i, ys.getD i false ≠ true) : ∀ y ∈ ys, y = false := fun y hy => by
    obtain ⟨i, hi, rfl⟩ := List.mem_iff_getElem.mp hy
    simpa [List.getD, hi] using h i
  have hdrop (n i : Nat) : (xs.drop n).getD i false = xs.getD (n + i) false := by simp [List.getD]
  have hfront : ∀ x ∈ xs.take k, x = false := hfalse fun i hi => by
    rcases Nat.lt_or_ge i k with h | h
    · have hin := hburst i (by simpa [List.getD, List.getElem?_take, h] using hi)
      omega
    · simp [List.getD, Nat.not_lt.mpr h] at hi
  have hback : ∀ x ∈ (xs.drop k).drop 32, x = false := hfalse fun i hi => by
    rw [List.drop_drop, hdrop] at hi
    have := hburst _ hi
    omega
  have hwindow : ((xs.drop k).take 32).length ≤ 32 := by simp
  rw [← List.take_append_drop k xs, ← List.take_append_drop 32 (xs.drop k), List.foldl_append, List.foldl_append,
    foldl_crcBit_of_all_false _ hfront, crcRound_iterate_zero, foldl_crcBit _ hwindow, foldl_crcBit_of_all_false _ hback]
  intro hzero
  have hpack := eq_zero_of_crcRound_iterate_eq_zero (eq_zero_of_crcRound_iterate_eq_zero hzero)
  obtain ⟨j, hj⟩ := hsome
  obtain ⟨h1, h2⟩ := hburst j hj
  have hbit : ((xs.drop k).take 32).getD (j - k) false = true := by
    have hat := hdrop k (j - k)
    rw [show k + (j - k) = j by omega, hj] at hat
    simpa [List.getD, List.getElem?_take, show j - k < 32 by omega] using hat
  rw [BitVec.zero_xor] at hpack
  rw [← packBits_getLsbD _ (show j - k < 32 by omega), hpack] at hbit
  simp at hbit

/-! Two byte strings. -/

/-- The places where two byte strings differ. -/
def diffBytes (a b : List Byte) : List Byte := List.zipWith (· ^^^ ·) a b

theorem diffBytes_getD {a b : List Byte} (h : a.length = b.length) (i : Nat) :
    (diffBytes a b).getD i 0#8 = a.getD i 0#8 ^^^ b.getD i 0#8 := by
  rcases Nat.lt_or_ge i a.length with hi | hi
  · simp [diffBytes, List.getD, hi, h ▸ hi]
  · simp [diffBytes, List.getD, hi, h ▸ hi]

/-- The register is linear: the difference of two strings leaves the difference of the registers. -/
theorem crcUpdate_diffBytes {a b : List Byte} (h : a.length = b.length) (c d : Word32) :
    crcUpdate (c ^^^ d) (diffBytes a b) = crcUpdate c a ^^^ crcUpdate d b := by
  rw [crcUpdate_eq_foldl, crcUpdate_eq_foldl, crcUpdate_eq_foldl]
  induction a generalizing b c d with
  | nil =>
    obtain rfl : b = [] := List.length_eq_zero_iff.mp h.symm
    rfl
  | cons x a ih =>
    obtain ⟨y, b, rfl⟩ := List.exists_cons_of_length_pos (show 0 < b.length by rw [← h]; simp)
    have hbyte : crcByte (c ^^^ d) (x ^^^ y) = crcByte c x ^^^ crcByte d y := by
      rw [crcByte_eq_iterate, crcByte_eq_iterate, crcByte_eq_iterate, ← crcRound_iterate_xor, BitVec.setWidth_xor]
      congr 1
      ac_rfl
    rw [List.foldl_cons, List.foldl_cons, ← ih (by simpa using h), ← hbyte]
    rfl

/-- Two different strings of one length differ in some bit. -/
theorem exists_bit_ne {a b : List Byte} (h : a.length = b.length) (hne : a ≠ b) :
    ∃ j, (a.getD (j / 8) 0#8).getLsbD (j % 8) ≠ (b.getD (j / 8) 0#8).getLsbD (j % 8) := by
  by_contra hall
  simp only [not_exists, not_not] at hall
  refine hne (List.ext_getElem h fun n hn hn' => BitVec.eq_of_getLsbD_eq fun i hi => ?_)
  have := hall (8 * n + i)
  rw [show (8 * n + i) / 8 = n by omega, show (8 * n + i) % 8 = i by omega] at this
  simpa [List.getD, hn, hn'] using this

/-! The frame encoder. -/

theorem State.answerFrame_of_fits (s : State) {p : List Byte} (h : p.length ≤ 1024) :
    s.answerFrame p = s.ok (.bytes (wrapFrame p)) :=
  if_pos (decide_eq_true h)

theorem fitsEnvelope_of_gt {p : List Byte} (h : 1024 < p.length) : fitsEnvelope p = false :=
  decide_eq_false (Nat.not_le.mpr h)

theorem State.answerFrame_of_tooLarge (s : State) {p : List Byte} (h : 1024 < p.length) :
    s.answerFrame p = s.refuseTooLarge p.length := by
  rw [State.answerFrame, fitsEnvelope_of_gt h]
  rfl

theorem exec_fencWrap (p : List Byte) (s : State) : exec (.fencWrap p) s = .next (s.answerFrame p) := rfl

theorem exec_fencEncode (m : Message) (s : State) :
    exec (.fencEncode m) s = .next (s.answerFrame (serText s.params.textFormat m)) := rfl

theorem exec_txSend_of_tooLarge {s : State} {m : Message} (h : 1024 < (serText s.params.textFormat m).length)
    (hvalid : s.cfg.cfgValid = true) (hidle : s.mod.active = false) :
    exec (.txSend m) s = .next (s.refuseTooLarge (serText s.params.textFormat m).length) := by
  simp [exec, execTxSend, hvalid, hidle, fitsEnvelope_of_gt h]

end Sys2Proof.Machine

namespace Sys2Proof.Proofs
open Sys2Proof.Machine

/-- Settles O22: each of the three answers and does nothing else. -/
theorem checksumOperationsComplete : Obligations.ChecksumOperationsComplete := by
  unfold Obligations.ChecksumOperationsComplete
  intro s data payload h m
  exact ⟨rfl, rfl, rfl⟩

/-- Settles O24: the register of the differing bits alone is not 0, and it is the difference of the two registers. -/
theorem crcDetectsShortBursts : Obligations.CrcDetectsShortBursts := by
  unfold Obligations.CrcDetectsShortBursts
  intro a b k hlen hne hburst heq
  have hbits (j : Nat) : (bitsOf (diffBytes a b)).getD j false = true ↔
      (a.getD (j / 8) 0#8).getLsbD (j % 8) ≠ (b.getD (j / 8) 0#8).getLsbD (j % 8) := by
    rw [bitsOf_getD, diffBytes_getD hlen, BitVec.getLsbD_xor, bne_iff_ne]
  have hdiff : crcUpdate Config.crcInit a = crcUpdate Config.crcInit b := (BitVec.xor_left_inj _).mp heq
  have hlin := crcUpdate_diffBytes hlen Config.crcInit Config.crcInit
  rw [BitVec.xor_self, hdiff, BitVec.xor_self, crcUpdate_eq_foldl_bits] at hlin
  refine foldl_crcBit_burst_ne_zero (fun j hj => hburst j ((hbits j).mp hj)) ?_ hlin
  obtain ⟨j, hj⟩ := exists_bit_ne hlen hne
  exact ⟨j, (hbits j).mpr hj⟩

/-- Settles O26: FENC.SER answers always, the two others where the payload fits. -/
theorem frameEncoderCompletes : Obligations.FrameEncoderCompletes := by
  unfold Obligations.FrameEncoderCompletes
  intro s m p
  refine ⟨rfl, fun hp => ?_, fun hm => ?_⟩
  · rw [exec_fencWrap, s.answerFrame_of_fits hp]
    rfl
  · rw [exec_fencEncode, s.answerFrame_of_fits hm]
    rfl

/-- Settles O27: a payload that does not fit is refused with its size. -/
theorem tooLargePayloadIsRefused : Obligations.TooLargePayloadIsRefused := by
  unfold Obligations.TooLargePayloadIsRefused
  intro s m p
  refine ⟨fun hp => ?_, fun hm => ?_, fun hm hvalid hidle => ?_⟩
  · rw [exec_fencWrap, s.answerFrame_of_tooLarge hp]
    rfl
  · rw [exec_fencEncode, s.answerFrame_of_tooLarge hm]
    rfl
  · rw [exec_txSend_of_tooLarge hm hvalid hidle]
    rfl

end Sys2Proof.Proofs
end

-- ==== Proofs: 41_modulator.md, MOD.ENCODE and TX.SEND ====
section
/-!
SUPPORT. Proofs of the statements on 41_modulator.md and on TX.SEND: the refusals, one turn of MOD (R153, R156), the run of a call
(R151, R157) and the range of a sample (R158, R159).
-/

-- One declaration after another: fewer threads, and so less memory, at a time.
set_option Elab.async false

namespace Sys2Proof.Machine

/-! The refusals. -/

/-- While a call is running a refusal is kept to follow its answer. -/
theorem refuseMod_active {s : State} (h : s.mod.active = true) (st : Status) :
    s.refuseMod st = { s with mod := { s.mod with late := s.mod.late ++ [{ status := st, value := .none }] } } := by
  simp [State.refuseMod, h]

/-- A request to transmit. -/
def isTransmit (i : Instr) : Prop := (∃ b, i = .modEncode b) ∨ (∃ m, i = .txSend m)

theorem exec_transmit_of_unconfigured {i : Instr} (hi : isTransmit i) {s : State} (h : s.cfg.cfgValid = false) :
    exec i s = .next (s.refuseMod .notConfigured) := by
  rcases hi with ⟨b, rfl⟩ | ⟨m, rfl⟩
  · rw [exec_modEncode]; simp [execModEncode, h]
  · show execTxSend m s = _; simp [execTxSend, h]

theorem exec_transmit_of_active {i : Instr} (hi : isTransmit i) {s : State} (hv : s.cfg.cfgValid = true)
    (ha : s.mod.active = true) : exec i s = .next (s.refuseMod .busy) := by
  rcases hi with ⟨b, rfl⟩ | ⟨m, rfl⟩
  · rw [exec_modEncode]; simp [execModEncode, hv, ha]
  · show execTxSend m s = _; simp [execTxSend, hv, ha]

/-! The counters (41_modulator.md R156). -/

theorem ModRegs.advance_sample {c : CfgRegs} {m : ModRegs} (h : m.sampIdx + 1 < c.sps) :
    m.advance c = { m with sampIdx := m.sampIdx + 1 } := by
  simp [ModRegs.advance, h]

theorem ModRegs.advance_symbol {c : CfgRegs} {m : ModRegs} (h : m.sampIdx + 1 = c.sps) (hb : m.bitIdx < 7) :
    m.advance c = { m with sampIdx := 0, firstSym := false, bitIdx := m.bitIdx + 1 } := by
  simp [ModRegs.advance, h, hb]

theorem ModRegs.advance_byte {c : CfgRegs} {m : ModRegs} (h : m.sampIdx + 1 = c.sps) (hb : m.bitIdx = 7) :
    m.advance c = { m with sampIdx := 0, firstSym := false, bitIdx := 0, held := false, active := !m.isLast } := by
  simp [ModRegs.advance, h, hb]

/-- A scheduled turn of MOD with a byte held. -/
theorem step_mod_held {s : State} {ts : List Turn} (hs : s.sched = .mod :: ts) (ha : s.mod.active = true)
    (hh : s.mod.held = true) :
    step s = .next ({ s with sched := ts }.modAdvance ([s.mod.item s.params s.cfg], s.mod.advance s.cfg)) := by
  simp [step, hs, State.turn, State.modStep, ModRegs.step_held _ _ _ ha hh]

/-! One symbol, one byte, one call. -/

/-- The modulator at sample `i` of its symbol. -/
def ModRegs.atSample (m : ModRegs) (i : Nat) : ModRegs := { m with sampIdx := i }

@[simp] theorem ModRegs.atSample_atSample (m : ModRegs) (i j : Nat) : (m.atSample i).atSample j = m.atSample j := rfl

@[simp] theorem ModRegs.atSample_sampIdx (m : ModRegs) : m.atSample m.sampIdx = m := rfl

@[simp] theorem ModRegs.sampIdx_atSample (m : ModRegs) (i : Nat) : (m.atSample i).sampIdx = i := rfl

/-- The rest of a symbol, from sample `m.sampIdx` on. -/
theorem ModRegs.run_symbol (p : Params) (c : CfgRegs) (n : Nat) (m : ModRegs) (ha : m.active = true) (hh : m.held = true)
    (hn : m.sampIdx + (n + 1) = c.sps) :
    m.run p c (n + 1) =
      ((List.range' m.sampIdx (n + 1)).map (fun i => (m.atSample i).item p c), (m.atSample (m.sampIdx + n)).advance c) := by
  induction n generalizing m with
  | zero =>
    rw [ModRegs.run, if_pos ha, ModRegs.step_held _ _ _ ha hh]
    simp [ModRegs.run]
  | succ n ih =>
    have hadv : m.advance c = m.atSample (m.sampIdx + 1) := ModRegs.advance_sample (by omega)
    rw [ModRegs.run, if_pos ha, ModRegs.step_held _ _ _ ha hh, hadv]
    dsimp only
    rw [ih (m.atSample (m.sampIdx + 1)) ha hh (by rw [ModRegs.sampIdx_atSample]; omega), List.range'_succ (n := n + 1)]
    simp [Nat.add_assoc, Nat.add_comm 1 n]

/-- The modulator at the next symbol of the byte that it holds. -/
def ModRegs.nextSymbol (m : ModRegs) : ModRegs := { m with firstSym := false, bitIdx := m.bitIdx + 1 }

/-- The modulator after the last symbol of the byte that it held. -/
def ModRegs.endByte (m : ModRegs) : ModRegs := { m with firstSym := false, bitIdx := 0, held := false, active := !m.isLast }

/-- The items of symbol `k` of the byte that `m` holds. -/
def ModRegs.symbolItems (p : Params) (c : CfgRegs) (m : ModRegs) (k : Nat) (first : Bool) : List PcmItem :=
  (List.range c.sps).map (fun i => ModRegs.item p c { m with bitIdx := k, sampIdx := i, firstSym := first })

/-- A whole symbol. -/
theorem ModRegs.run_wholeSymbol (p : Params) (c : CfgRegs) (m : ModRegs) (ha : m.active = true) (hh : m.held = true)
    (hsps : 1 ≤ c.sps) (hs : m.sampIdx = 0) :
    m.run p c c.sps = (m.symbolItems p c m.bitIdx m.firstSym, (m.atSample (c.sps - 1)).advance c) := by
  obtain ⟨n, hn⟩ : ∃ n, c.sps = n + 1 := ⟨c.sps - 1, by omega⟩
  have hrun := ModRegs.run_symbol p c n m ha hh (by omega)
  rw [hs, Nat.zero_add, ← List.range_eq_range'] at hrun
  rw [ModRegs.symbolItems, hn, hrun]
  rfl

/-- A symbol that is not the last of its byte. -/
theorem ModRegs.run_innerSymbol (p : Params) (c : CfgRegs) (m : ModRegs) (ha : m.active = true) (hh : m.held = true)
    (hsps : 1 ≤ c.sps) (hs : m.sampIdx = 0) (hb : m.bitIdx < 7) :
    m.run p c c.sps = (m.symbolItems p c m.bitIdx m.firstSym, m.nextSymbol) := by
  rw [ModRegs.run_wholeSymbol p c m ha hh hsps hs,
    ModRegs.advance_symbol (m := m.atSample (c.sps - 1)) (by rw [ModRegs.sampIdx_atSample]; omega) hb, ModRegs.nextSymbol, hs]
  rfl

/-- The last symbol of a byte. -/
theorem ModRegs.run_lastSymbol (p : Params) (c : CfgRegs) (m : ModRegs) (ha : m.active = true) (hh : m.held = true)
    (hsps : 1 ≤ c.sps) (hs : m.sampIdx = 0) (hb : m.bitIdx = 7) :
    m.run p c c.sps = (m.symbolItems p c m.bitIdx m.firstSym, m.endByte) := by
  rw [ModRegs.run_wholeSymbol p c m ha hh hsps hs,
    ModRegs.advance_byte (m := m.atSample (c.sps - 1)) (by rw [ModRegs.sampIdx_atSample]; omega) hb, ModRegs.endByte, hs]
  rfl

/-- The last `n + 1` symbols of a byte. -/
theorem ModRegs.run_symbols (p : Params) (c : CfgRegs) (n : Nat) (m : ModRegs) (ha : m.active = true) (hh : m.held = true)
    (hsps : 1 ≤ c.sps) (hs : m.sampIdx = 0) (hb : m.bitIdx + n = 7) :
    m.run p c ((n + 1) * c.sps) =
      ((List.range' m.bitIdx (n + 1)).flatMap (fun k => m.symbolItems p c k (m.firstSym && decide (k = m.bitIdx))),
        m.endByte) := by
  induction n generalizing m with
  | zero =>
    rw [Nat.zero_add, Nat.one_mul, ModRegs.run_lastSymbol p c m ha hh hsps hs hb]
    simp
  | succ n ih =>
    have hrest := ih m.nextSymbol ha hh hs (by show m.bitIdx + 1 + n = 7; omega)
    rw [show (n + 1 + 1) * c.sps = c.sps + (n + 1) * c.sps by ring, ModRegs.run_add,
      ModRegs.run_innerSymbol p c m ha hh hsps hs (by omega), hrest, List.range'_succ (n := n + 1), List.flatMap_cons]
    have hlater : (List.range' (m.bitIdx + 1) (n + 1)).flatMap
          (fun k => m.nextSymbol.symbolItems p c k (m.nextSymbol.firstSym && decide (k = m.nextSymbol.bitIdx))) =
        (List.range' (m.bitIdx + 1) (n + 1)).flatMap
          (fun k => m.symbolItems p c k (m.firstSym && decide (k = m.bitIdx))) := by
      refine List.flatMap_congr fun k hk => ?_
      have hk' : k ≠ m.bitIdx := by have := (List.mem_range'_1.1 hk).1; omega
      simp [hk', ModRegs.symbolItems, ModRegs.nextSymbol]
    rw [← hlater, decide_eq_true rfl, Bool.and_true]
    rfl

/-- The items of a call, the ramp up of whose first symbol is there if `first` says so (41_modulator.md R151). -/
def sendItems (p : Params) (c : CfgRegs) (first : Bool) (bytes : List Byte) : List PcmItem :=
  (List.range (8 * bytes.length)).flatMap fun j => (List.range c.sps).map fun i =>
    { sample := sampleOut p c (bitOfBytes bytes j) i (first && decide (j = 0)) (decide (j + 1 = 8 * bytes.length))
      last := decide (j + 1 = 8 * bytes.length) && decide (i + 1 = c.sps) }

theorem sendItems_true (p : Params) (c : CfgRegs) (bytes : List Byte) : sendItems p c true bytes = encodedItems p c bytes := by
  simp [sendItems, encodedItems, encodedItem]

@[simp] theorem sendItems_nil (p : Params) (c : CfgRegs) (first : Bool) : sendItems p c first [] = [] := rfl

theorem bitOfBytes_cons_of_lt (b : Byte) (rest : List Byte) {j : Nat} (h : j < 8) :
    bitOfBytes (b :: rest) j = b.getLsbD (7 - j) := by
  simp [bitOfBytes, Nat.div_eq_of_lt h, Nat.mod_eq_of_lt h]

theorem bitOfBytes_cons_add (b : Byte) (rest : List Byte) (j : Nat) : bitOfBytes (b :: rest) (8 + j) = bitOfBytes rest j := by
  have hdiv : (8 + j) / 8 = j / 8 + 1 := by omega
  simp [bitOfBytes, hdiv]

/-- The items of the first byte stand before those of the others. -/
theorem sendItems_cons (p : Params) (c : CfgRegs) (m : ModRegs) (rest : List Byte) (hl : m.isLast = decide (rest = [])) :
    sendItems p c m.firstSym (m.byte :: rest) =
      (List.range' 0 8).flatMap (fun k => m.symbolItems p c k (m.firstSym && decide (k = 0))) ++ sendItems p c false rest := by
  have hlen : 8 * (m.byte :: rest).length = 8 + 8 * rest.length := by simp; ring
  rw [sendItems, hlen, List.range_add, List.flatMap_append, List.flatMap_map, ← List.range_eq_range']
  congr 1
  · refine List.flatMap_congr fun k hk => ?_
    have hk8 : k < 8 := List.mem_range.1 hk
    have hlast : decide (k + 1 = 8 + 8 * rest.length) = (m.isLast && decide (k = 7)) := by
      rw [hl, Bool.eq_iff_iff]
      simp only [decide_eq_true_eq, Bool.and_eq_true, ← List.length_eq_zero_iff]
      omega
    simp only [ModRegs.symbolItems, ModRegs.item, ModRegs.bit, ModRegs.lastSym, bitOfBytes_cons_of_lt _ _ hk8, hlast]
  · refine List.flatMap_congr fun j _ => ?_
    have hlast : (8 + j + 1 = 8 + 8 * rest.length) = (j + 1 = 8 * rest.length) := by
      simp only [eq_iff_iff]; omega
    simp [bitOfBytes_cons_add, hlast]

theorem txItems_cons (b : Byte) (rest : List Byte) : txItems (b :: rest) = (b, decide (rest = [])) :: txItems rest := by
  cases rest <;> rfl

/-- Taking the next byte of a call (41_modulator.md R152). -/
theorem ModRegs.take_txItems {m : ModRegs} {b : Byte} {rest : List Byte} (h : m.tx = txItems (b :: rest)) :
    m.take = { m with
      tx := txItems rest, byte := b, isLast := decide (rest = []), held := true, active := true
      firstSym := if m.active then m.firstSym else true } := by
  simp [ModRegs.take, h, txItems_cons]

/-- The rest of a call, from the beginning of a byte on: exactly its items, and then the modulator is idle. -/
theorem ModRegs.run_call (p : Params) (c : CfgRegs) (hsps : 1 ≤ c.sps) (rest : List Byte) (m : ModRegs)
    (ha : m.active = true) (hh : m.held = true) (hb : m.bitIdx = 0) (hs : m.sampIdx = 0)
    (hl : m.isLast = decide (rest = [])) (ht : m.tx = txItems rest) :
    ∃ m' : ModRegs, m.run p c (8 * c.sps + rest.length * (8 * c.sps + 1)) = (sendItems p c m.firstSym (m.byte :: rest), m') ∧
      m'.active = false ∧ m'.bitIdx = 0 ∧ m'.sampIdx = 0 ∧ m'.tx = [] ∧ m'.late = m.late := by
  induction rest generalizing m with
  | nil =>
    have hbyte := ModRegs.run_symbols p c 7 m ha hh hsps hs (by omega)
    rw [hb] at hbyte
    refine ⟨m.endByte, ?_, ?_, rfl, hs, ht, rfl⟩
    · rw [List.length_nil, Nat.zero_mul, Nat.add_zero, hbyte, sendItems_cons p c m [] hl, sendItems_nil, List.append_nil]
    · simp [ModRegs.endByte, hl]
  | cons b rest ih =>
    have hbyte := ModRegs.run_symbols p c 7 m ha hh hsps hs (by omega)
    rw [hb] at hbyte
    have hactive : m.endByte.active = true := by simp [ModRegs.endByte, hl]
    have htake := ModRegs.take_txItems (m := m.endByte) (b := b) (rest := rest) ht
    generalize hnext : m.endByte.take = next at htake
    have hone : m.endByte.run p c 1 = ([], next) := by
      simp [ModRegs.run, hactive, ModRegs.step_take p c m.endByte hactive rfl, hnext]
    have hfirst : next.firstSym = false := by rw [htake, hactive]; rfl
    have hbyte' : next.byte = b := by rw [htake]
    obtain ⟨m', hrun, hidle, hbit, hsamp, htx, hlate⟩ := ih next (by rw [htake]) (by rw [htake])
      (by rw [htake]; rfl) (by rw [htake]; exact hs) (by rw [htake]) (by rw [htake])
    refine ⟨m', ?_, hidle, hbit, hsamp, htx, by rw [hlate, htake]; rfl⟩
    rw [show 8 * c.sps + (b :: rest).length * (8 * c.sps + 1)
        = (7 + 1) * c.sps + (1 + (8 * c.sps + rest.length * (8 * c.sps + 1))) by simp only [List.length_cons]; ring,
      ModRegs.run_add, hbyte, ModRegs.run_add, sendItems_cons p c m (b :: rest) hl, hone, hrun, hfirst, hbyte',
      List.nil_append]

/-- MOD.ENCODE of a non-empty byte string in serial execution (41_modulator.md R157). -/
theorem startEncode_completes {s : State} (hsps : 1 ≤ s.cfg.sps) (hm : ModInv s.cfg s.mod) (hidle : s.mod.active = false)
    (hsched : s.sched = []) {bytes : List Byte} (hne : bytes ≠ []) :
    ∃ m : ModRegs, s.startEncode bytes = { s with
        mod := m
        pcmOut := s.pcmOut ++ encodedItems s.params s.cfg bytes
        rspOut := s.rspOut ++ [{ status := .ok, value := .none }] } ∧
      m.active = false ∧ m.bitIdx = 0 ∧ m.sampIdx = 0 ∧ m.tx = [] ∧ m.late = [] := by
  obtain ⟨b, rest, rfl⟩ := List.exists_cons_of_ne_nil hne
  obtain ⟨hbit, hsamp, -, -, hlate⟩ := hm.idle hidle
  have htake := ModRegs.take_txItems (m := { s.mod with tx := txItems (b :: rest) }) (b := b) (rest := rest) rfl
  generalize hm0 : ModRegs.take { s.mod with tx := txItems (b :: rest) } = m0 at htake
  obtain ⟨m', hrun, hidle', hbit', hsamp', htx', hlate'⟩ := ModRegs.run_call s.params s.cfg hsps rest m0
    (by rw [htake]) (by rw [htake]) (by rw [htake]; exact hbit) (by rw [htake]; exact hsamp) (by rw [htake]) (by rw [htake])
  have hfirst : m0.firstSym = true := by simp [htake, hidle]
  have hbyte : m0.byte = b := by rw [htake]
  have hactive : m0.active = true := by rw [htake]
  rw [hfirst, hbyte, sendItems_true] at hrun
  have hlate0 : m'.late = [] := by rw [hlate', htake]; exact hlate
  -- the modulator is given more steps than the call has
  have hwork : ∃ extra, m0.workLeft s.cfg = 8 * s.cfg.sps + rest.length * (8 * s.cfg.sps + 1) + extra := by
    refine Nat.exists_eq_add_of_le ?_
    rw [ModRegs.workLeft, htake]
    simp only [txItems_length]
    nlinarith
  obtain ⟨extra, hwork⟩ := hwork
  have hfinish : m0.run s.params s.cfg (m0.workLeft s.cfg) = (encodedItems s.params s.cfg (b :: rest), m') := by
    rw [hwork, ModRegs.run_add, hrun, ModRegs.run_idle _ _ _ _ hidle', List.append_nil]
  refine ⟨{ m' with late := [] }, ?_, hidle', hbit', hsamp', htx', rfl⟩
  simp only [State.startEncode, hsched, List.isEmpty_nil, if_true]
  rw [hm0, State.modFinish, State.modAdvance_eq]
  simp [hfinish, hactive, hidle', hlate0]

/-! The items of a call, one by one. -/

/-- Place `j * n + i` of a list of blocks of length `n`. -/
theorem flatMap_getElem?_block {α : Type} (f : Nat → List α) {n : Nat} (hf : ∀ j, (f j).length = n) {k j i : Nat} (hj : j < k)
    (hi : i < n) : ((List.range k).flatMap f)[j * n + i]? = (f j)[i]? := by
  obtain ⟨r, rfl⟩ : ∃ r, k = j + (1 + r) := ⟨k - j - 1, by omega⟩
  have hbefore : ((List.range j).flatMap f).length = j * n := by simp [List.length_flatMap, hf]
  rw [List.range_add, List.flatMap_append, List.getElem?_append_right (by omega), hbefore, List.flatMap_map, Nat.add_comm 1 r,
    List.range_succ_eq_map, List.flatMap_cons, List.getElem?_append_left (by simp [hf]; omega)]
  simp

theorem encodedItems_getElem? (p : Params) (c : CfgRegs) (bytes : List Byte) {j i : Nat} (hj : j < 8 * bytes.length)
    (hi : i < c.sps) : (encodedItems p c bytes)[j * c.sps + i]? = some (encodedItem p c bytes j i) := by
  rw [encodedItems, flatMap_getElem?_block _ (by simp) hj hi]
  simp [hi]

/-- Only the final item of a call is marked (41_modulator.md R157). -/
theorem encodedItems_last_iff (p : Params) (c : CfgRegs) (bytes : List Byte) {k : Nat} {x : PcmItem}
    (h : (encodedItems p c bytes)[k]? = some x) : x.last = true ↔ k + 1 = 8 * bytes.length * c.sps := by
  obtain ⟨hk, -⟩ := List.getElem?_eq_some_iff.1 h
  rw [encodedItems_length] at hk
  have hsps : 0 < c.sps := Nat.pos_of_ne_zero fun h0 => by simp [h0] at hk
  -- item `k` is sample `k % sps` of symbol `k / sps`
  have hk' : k / c.sps * c.sps + k % c.sps = k := Nat.div_add_mod' k c.sps
  have hj : k / c.sps < 8 * bytes.length := Nat.div_lt_of_lt_mul (by rwa [Nat.mul_comm c.sps])
  have hi := Nat.mod_lt k hsps
  have hitem := encodedItems_getElem? p c bytes hj hi
  rw [hk', h, Option.some.injEq] at hitem
  subst hitem
  simp only [encodedItem, Bool.and_eq_true, decide_eq_true_eq]
  generalize 8 * bytes.length = n at *
  generalize k / c.sps = j at *
  generalize k % c.sps = i at *
  subst hk'
  constructor
  · rintro ⟨rfl, hlast⟩
    rw [Nat.add_mul, Nat.one_mul, Nat.add_assoc, hlast]
  · intro hlast
    have hjn : j + 1 = n := by
      by_contra hne
      have : (j + 1 + 1) * c.sps ≤ n * c.sps := Nat.mul_le_mul_right _ (by omega)
      rw [Nat.add_mul, Nat.add_mul, Nat.one_mul] at this
      omega
    subst hjn
    rw [Nat.add_mul, Nat.one_mul] at hlast
    exact ⟨rfl, by omega⟩

/-! The range of a sample. -/

theorem f32Finite_zero : f32Finite 0#32 = true := by decide

theorem f32Value_zero : f32Value 0#32 = 0 := by
  have : f32Scaled 0#32 = 0 := by decide
  simp [f32Value, this]

theorem f32Finite_negZero : f32Finite 0x80000000#32 = true := by decide

theorem f32Value_negZero : f32Value 0x80000000#32 = 0 := by
  have : f32Scaled 0x80000000#32 = 0 := by decide
  simp [f32Value, this]

/-- Finite and no larger than the amplitude (41_modulator.md R159). -/
def InRange (c : CfgRegs) (x : Sample) : Prop := f32Finite x = true ∧ |f32Value x| ≤ c.conf.amplitude

theorem rat_abs_eq (q : Rat) : q.abs = |q| := by
  unfold Rat.abs
  split
  · next h => rw [abs_of_nonneg h]
  · next h => rw [abs_of_neg (not_le.1 h)]

theorem inRange_zero {c : CfgRegs} (ha : 0 < c.conf.amplitude) : InRange c 0#32 :=
  ⟨f32Finite_zero, by rw [f32Value_zero, abs_zero]; exact ha.le⟩

theorem inRange_negZero {c : CfgRegs} (ha : 0 < c.conf.amplitude) : InRange c 0x80000000#32 :=
  ⟨f32Finite_negZero, by rw [f32Value_negZero, abs_zero]; exact ha.le⟩

theorem inRange_withinAmplitude {c : CfgRegs} (x : Sample) {other : Sample} (h : InRange c other) :
    InRange c (withinAmplitude c x other) := by
  rcases withinAmplitude_cases c x other with ⟨hx, hfin, hle⟩ | hx
  · rw [hx]; exact ⟨hfin, by rwa [← rat_abs_eq]⟩
  · rw [hx]; exact h

theorem inRange_referenceSample {c : CfgRegs} (ha : 0 < c.conf.amplitude) (bit : Bool) (i : Nat) (first last : Bool) :
    InRange c (referenceSample c bit i first last) :=
  inRange_withinAmplitude _ (inRange_withinAmplitude _ (inRange_zero ha))

theorem inRange_of_sampleAllowed {eps : Rat} {c : CfgRegs} {bit : Bool} {i : Nat} {first last : Bool} {x : Sample}
    (h : sampleAllowed eps c bit i first last x = true) : InRange c x := by
  simp only [sampleAllowed, Bool.and_eq_true, decide_eq_true_eq, rat_abs_eq] at h
  exact ⟨h.1.1, h.1.2⟩

/-- What the sample put on `pcm_out` can be (41_modulator.md R158): a zero where a factor of the product is zero, elsewhere a value
that `EPS_TX` allows, or the reference sample. -/
theorem sampleOut_cases (p : Params) (c : CfgRegs) (bit : Bool) (i : Nat) (first last : Bool) :
    (sampleIsZero c i last = true ∧
        (sampleOut p c bit i first last = 0#32 ∨ sampleOut p c bit i first last = 0x80000000#32)) ∨
      (sampleIsZero c i last = false ∧
        (sampleOut p c bit i first last = referenceSample c bit i first last ∨
          ∃ eps, p.sampling = .within eps ∧ sampleAllowed eps c bit i first last (sampleOut p c bit i first last) = true)) := by
  unfold sampleOut
  cases hz : sampleIsZero c i last with
  | true =>
    refine .inl ⟨rfl, ?_⟩
    cases p.sampling with
    | reference => exact .inl rfl
    | within eps => dsimp only; rw [if_pos rfl]; split <;> simp
  | false =>
    refine .inr ⟨rfl, ?_⟩
    cases p.sampling with
    | reference => exact .inl rfl
    | within eps =>
      dsimp only
      rw [if_neg (by simp)]
      split
      · next h => exact .inr ⟨eps, rfl, h⟩
      · exact .inl rfl

theorem sampleIsZero_iff (c : CfgRegs) (i : Nat) (last : Bool) :
    sampleIsZero c i last = true ↔ i = 0 ∨ (last = true ∧ 0 < c.rampN ∧ i + 1 = c.sps) := by
  simp [sampleIsZero, and_assoc]

end Sys2Proof.Machine

namespace Sys2Proof.Proofs
open Sys2Proof.Machine

/-- Settles O34: the refusals of R135 and R309, the first at once or after the running call's answer. -/
theorem transmitRefusals : Obligations.TransmitRefusals := by
  unfold Obligations.TransmitRefusals
  intro i s hi
  refine ⟨fun hv ha => ?_, fun hv ha => ?_, fun hv ha => ?_⟩
  · rw [exec_transmit_of_unconfigured hi hv, State.refuseMod_idle _ _ ha]
    rfl
  · rw [exec_transmit_of_unconfigured hi hv, refuseMod_active ha]
  · rw [exec_transmit_of_active hi hv ha, refuseMod_active ha]

/-- Settles O35: the turn emits one item, and the three cases of the counters. -/
theorem modTurnEmitsOneSample : Obligations.ModTurnEmitsOneSample := by
  unfold Obligations.ModTurnEmitsOneSample
  intro s ts hs ha hh hb hi
  refine ⟨_, step_mod_held hs ha hh, ?_, ?_, fun hlt => ?_, fun heq hlt => ?_, fun heq h7 hl => ?_, fun heq h7 hl => ?_⟩
  · rw [State.modAdvance_eq]
  · rw [State.modAdvance_eq]; rfl
  · simp [State.modAdvance_eq, ModRegs.advance_sample hlt, ha]
  · simp [State.modAdvance_eq, ModRegs.advance_symbol heq hlt, ha]
  · simp [State.modAdvance_eq, ModRegs.advance_byte heq h7, ha, hl]
  · simp [State.modAdvance_eq, ModRegs.advance_byte heq h7, ha, hl]

/-- Settles O36: every branch of the sample is a zero or has passed the guard. -/
theorem samplesStayWithinAmplitude : Obligations.SamplesStayWithinAmplitude := by
  unfold Obligations.SamplesStayWithinAmplitude
  intro p c bit i first last ha
  show InRange c _
  rcases sampleOut_cases p c bit i first last with ⟨-, h | h⟩ | ⟨-, h | ⟨eps, -, h⟩⟩
  · rw [h]; exact inRange_zero ha
  · rw [h]; exact inRange_negZero ha
  · rw [h]; exact inRange_referenceSample ha bit i first last
  · exact inRange_of_sampleAllowed h

/-- Settles O37: there a factor of the product is zero, and the machine emits a zero without asking for the sine. -/
theorem rampEndsAreExactZeros : Obligations.RampEndsAreExactZeros := by
  unfold Obligations.RampEndsAreExactZeros
  intro p c bit i first last h
  rcases sampleOut_cases p c bit i first last with ⟨-, hz⟩ | ⟨hz, -⟩
  · exact hz
  · rw [(sampleIsZero_iff c i last).2 h] at hz
    cases hz

/-- Settles O32: the run of the call, byte by byte and symbol by symbol, and the places of its items. -/
theorem modEncodeMatchesFormula : Obligations.ModEncodeMatchesFormula := by
  unfold Obligations.ModEncodeMatchesFormula
  intro s bytes hvalid hsps hm hidle hsched hne
  refine ⟨?_, encodedItems_length .., fun k x => encodedItems_last_iff _ _ _,
    fun j i => encodedItems_getElem? _ _ _⟩
  obtain ⟨m, hrun, hm⟩ := startEncode_completes hsps hm hidle hsched hne
  exact ⟨m, by rw [exec_modEncode, execModEncode_of_accepted hvalid hidle, hrun], hm⟩

/-- Settles O40: a text that fits makes TX.SEND the MOD.ENCODE of its frame. -/
theorem txSendCompletes : Obligations.TxSendCompletes := by
  unfold Obligations.TxSendCompletes
  intro s m hvalid hsps hm hidle hsched hlen
  refine ⟨?_, by rw [encodedItems_length, wrapFrame_length]⟩
  have hne : wrapFrame (serText s.params.textFormat m) ≠ [] := by
    rw [← List.length_pos_iff, wrapFrame_length]; omega
  have hfits : fitsEnvelope (serText s.params.textFormat m) = true := by simp [fitsEnvelope, Config.maxLen, hlen]
  obtain ⟨r, hrun, hactive, -, -, -, hlate⟩ := startEncode_completes hsps hm hidle hsched hne
  refine ⟨r, ?_, hactive, hlate⟩
  show execTxSend m s = _
  simp [execTxSend, hvalid, hidle, hfits, hrun]

end Sys2Proof.Proofs
end

-- ==== Proofs: 42_demodulator.md, the demodulator ====
section
/-!
SUPPORT. Proofs of the statements on 42_demodulator.md: refusals, the per-sample step (R183 to R186), the operations (R137, R172, R182,
R188), the bytes of a buffer window by window (R190), and the windows whose bit needs no transform (R177, R179).
-/

-- One declaration after another: fewer threads, and so less memory, at a time.
set_option Elab.async false

namespace Sys2Proof.Machine

/-! The operations with DEM free. -/

theorem State.demBusy_of_free {s : State} (h : s.dem.op = none) : s.demBusy = false := by
  simp [State.demBusy, h]

theorem exec_demInit_of_free {s : State} (h : s.dem.op = none) :
    exec .demInit s =
      .next (if s.cfg.demValid then { s with dem := s.dem.init s.cfg.sps }.ok .none else s.refuse .notConfigured) := by
  show execDemInit s = _
  cases hv : s.cfg.demValid <;> simp [execDemInit, State.demBusy_of_free h, hv]

theorem exec_demDecode_of_free {s : State} (h : s.dem.op = none) (w : List Sample) :
    exec (.demDecode w) s =
      .next (if s.cfg.demValid then { s with dem := s.dem.init s.cfg.sps }.startDem (.decode w []) w.length
        else s.refuse .notConfigured) := by
  show execDemDecode w s = _
  cases hv : s.cfg.demValid <;> simp [execDemDecode, State.demBusy_of_free h, hv]

theorem exec_demPush_of_free {s : State} (h : s.dem.op = none) (w : List Sample) :
    exec (.demPush w) s =
      .next (if s.cfg.demValid then s.startDem (.push w []) w.length else s.refuse .notConfigured) := by
  show execDemPush w s = _
  cases hv : s.cfg.demValid <;> simp [execDemPush, State.demBusy_of_free h, hv]

theorem exec_detClassify_of_free {s : State} (h : s.dem.op = none) (w : List Sample) :
    exec (.detClassify w) s =
      .next (if s.cfg.cfgValid = true ∧ w.length ≠ s.cfg.sps then s.refuse .badOperand
        else if s.cfg.demValid then s.startDem (.classify w) 1 else s.refuse .notConfigured) := by
  show execDetClassify w s = _
  rw [execDetClassify, State.demBusy_of_free h, if_neg Bool.false_ne_true]
  by_cases hbad : s.cfg.cfgValid = true ∧ w.length ≠ s.cfg.sps
  · rw [if_pos (by simpa using hbad), if_pos hbad]
  · rw [if_neg (by simpa using hbad), if_neg hbad]
    cases s.cfg.demValid <;> rfl

theorem exec_rxRecv_of_unconfigured {s : State} (hdem : s.dem.op = none) (hfdec : s.fdec.op = none) (hv : s.cfg.demValid = false)
    (n : Nat) : exec (.rxRecv n) s = .next (s.refuse .notConfigured) := by
  show execRxRecv n s = _
  simp [execRxRecv, State.demBusy_of_free hdem, State.fdecBusy, hdem, hfdec, hv]

/-! Starting an operation, and running one to its end. -/

/-- An accepted DEM.PUSH in serial execution (42_demodulator.md R182). -/
theorem State.startDem_push {s : State} (h : s.dem.op = none) (hs : s.sched = []) (w : List Sample) :
    s.startDem (.push w []) w.length = { s with
      dem := (s.dem.pushSamples s.params s.cfg w).2
      rspOut := s.rspOut ++ [{ status := .ok, value := .bytes (s.dem.pushSamples s.params s.cfg w).1 }] } := by
  have hop := DemRegs.pushSamples_op s.params s.cfg s.dem w
  cases w with
  | nil =>
    simp only [State.startDem, State.demComplete, hs, List.isEmpty_nil, if_true, List.length_nil, State.demConsumeAll,
      DemRegs.pushSamples, ← h]
    rfl
  | cons x w =>
    simp only [State.startDem, State.demComplete, hs, List.isEmpty_nil, if_true]
    rw [State.demConsumeAll_push _ _ (x :: w) [] rfl (by simp) le_rfl]
    simp only [DemRegs.pushSamples_withOp, List.nil_append]
    rw [← h, ← hop]

/-- An accepted DEM.DECODE after its first DEM.INIT, in serial execution (42_demodulator.md R188). -/
theorem State.startDem_decode {s : State} (h : s.dem.op = none) (hs : s.sched = []) (w : List Sample) :
    s.startDem (.decode w []) w.length = { s with
      dem := (s.dem.pushSamples s.params s.cfg w).2.init s.cfg.sps
      rspOut := s.rspOut ++ [{ status := .ok, value := .bytes (s.dem.pushSamples s.params s.cfg w).1 }] } := by
  have hop : ((s.dem.pushSamples s.params s.cfg w).2.init s.cfg.sps).op = s.dem.op :=
    DemRegs.pushSamples_op s.params s.cfg s.dem w
  cases w with
  | nil =>
    simp only [State.startDem, State.demComplete, hs, List.isEmpty_nil, if_true, List.length_nil, State.demConsumeAll,
      DemRegs.pushSamples, ← h]
    rfl
  | cons x w =>
    simp only [State.startDem, State.demComplete, hs, List.isEmpty_nil, if_true]
    rw [State.demConsumeAll_decode _ _ (x :: w) [] rfl (by simp) le_rfl]
    simp only [DemRegs.pushSamples_withOp, List.nil_append]
    rw [← h, ← hop]
    rfl

/-- An operation with something left to do does not answer. -/
theorem State.demComplete_of_pending {s : State} {op : DemOp} (h : s.dem.op = some op) (hop : demOpPending (some op)) :
    s.demComplete = s := by
  rw [State.demComplete, h]
  cases op with
  | push rest out =>
    obtain ⟨x, rest, rfl⟩ := List.exists_cons_of_ne_nil hop
    rfl
  | decode rest out =>
    obtain ⟨x, rest, rfl⟩ := List.exists_cons_of_ne_nil hop
    rfl
  | classify w => rfl
  | recv left sent =>
    obtain ⟨k, rfl⟩ := Nat.exists_eq_succ_of_ne_zero hop
    rfl

/-- With turns scheduled an operation that is not over at once is in progress after its acceptance. -/
theorem State.startDem_scheduled {s : State} (hs : s.sched ≠ []) {op : DemOp} (hop : demOpPending (some op)) (n : Nat) :
    s.startDem op n = { s with dem := { s.dem with op := some op } } := by
  have hne : s.sched.isEmpty = false := by simpa using hs
  rw [State.startDem, State.demComplete_of_pending rfl hop]
  simp [hne]

/-- With nothing to serve and only DEM at work, a step is DEM going on as far as it can. -/
theorem step_of_dem_only {s : State} (hs : s.sched = []) (hc : s.cmdIn = []) (hm : s.mod.active = false)
    (hf : s.demFinish.fdec.op = none) : step s = .next s.demFinish := by
  rw [step_of_no_request hs hc, State.finishAll, State.modFinish_of_idle hm, State.feedFinish, hf]

/-- A scheduled turn of DEM. -/
theorem step_dem {s : State} {ts : List Turn} (hs : s.sched = .dem :: ts) : step s = .next ({ s with sched := ts }.demStep) := by
  simp [step, hs, State.turn]

/-! The per-sample step. -/

theorem shiftIn_eq_ofNat (sh : Byte) (bit : Bool) :
    (sh <<< 1) ||| (BitVec.ofBool bit).setWidth 8 = BitVec.ofNat 8 (2 * sh.toNat + bit.toNat) := by
  revert sh bit
  decide +kernel

@[simp] theorem DemRegs.pushSample_rxWin_length (p : Params) (c : CfgRegs) (d : DemRegs) (x : Sample) :
    (d.pushSample p c x).2.rxWin.length = d.rxWin.length := by
  rw [DemRegs.pushSample_eq]
  dsimp only
  split
  · exact writeAt_length ..
  · split <;> exact writeAt_length ..

/-- A sample that does not complete the window. -/
theorem DemRegs.pushSample_inner {p : Params} {c : CfgRegs} {d : DemRegs} {x : Sample} (h : d.rxFill + 1 < c.sps) :
    d.pushSample p c x = ([], d.store x) := by
  rw [DemRegs.pushSample_eq, if_pos h]

/-- The bit of the window that sample `x` completes. -/
def DemRegs.completedBit (p : Params) (c : CfgRegs) (d : DemRegs) (x : Sample) : Bool :=
  windowBit p c (Config.detectorBit d.draws) (d.rxWin.take d.rxFill ++ [x])

theorem DemRegs.completed_window {c : CfgRegs} {d : DemRegs} (x : Sample) (hw : d.rxWin.length = c.sps)
    (h : d.rxFill + 1 = c.sps) : (writeAt d.rxWin d.rxFill x).take c.sps = d.rxWin.take d.rxFill ++ [x] := by
  rw [← h, take_writeAt _ _ _ (by omega)]

/-- A sample that completes the window but no byte. -/
theorem DemRegs.pushSample_window {p : Params} {c : CfgRegs} {d : DemRegs} {x : Sample} (hw : d.rxWin.length = c.sps)
    (h : d.rxFill + 1 = c.sps) (hb : d.rxBitcnt + 1 ≠ 8) :
    d.pushSample p c x = ([], { d with
      rxWin := writeAt d.rxWin d.rxFill x, rxFill := 0, fftBuf := { draw := d.draws }, draws := d.draws + 1
      rxShift := BitVec.ofNat 8 (2 * d.rxShift.toNat + (d.completedBit p c x).toNat), rxBitcnt := d.rxBitcnt + 1 }) := by
  rw [DemRegs.pushSample_eq, if_neg (by omega), DemRegs.completed_window x hw h]
  simp only [hb, if_false, shiftIn_eq_ofNat]
  rfl

/-- A sample that completes a byte. -/
theorem DemRegs.pushSample_byte {p : Params} {c : CfgRegs} {d : DemRegs} {x : Sample} (hw : d.rxWin.length = c.sps)
    (h : d.rxFill + 1 = c.sps) (hb : d.rxBitcnt + 1 = 8) :
    d.pushSample p c x = ([BitVec.ofNat 8 (2 * d.rxShift.toNat + (d.completedBit p c x).toNat)], { d with
      rxWin := writeAt d.rxWin d.rxFill x, rxFill := 0, fftBuf := { draw := d.draws }, draws := d.draws + 1
      rxShift := 0#8, rxBitcnt := 0 }) := by
  rw [DemRegs.pushSample_eq, if_neg (by omega), DemRegs.completed_window x hw h]
  simp only [hb, if_true, shiftIn_eq_ofNat]
  rfl

/-- A chunk after another one (42_demodulator.md R182). -/
theorem DemRegs.pushSamples_append (p : Params) (c : CfgRegs) (a b : List Sample) (d : DemRegs) :
    d.pushSamples p c (a ++ b) =
      ((d.pushSamples p c a).1 ++ ((d.pushSamples p c a).2.pushSamples p c b).1,
        ((d.pushSamples p c a).2.pushSamples p c b).2) := by
  induction a generalizing d with
  | nil => rfl
  | cons x a ih => simp only [List.cons_append, DemRegs.pushSamples, ih, List.append_assoc]

/-! Windows. -/

/-- The demodulator stands at the beginning of a window: `n` bits of a byte are in, of value `v`. -/
structure DemRegs.AtWindow (c : CfgRegs) (d : DemRegs) (n v : Nat) : Prop where
  window : d.rxWin.length = c.sps
  fill : d.rxFill = 0
  bitcnt : d.rxBitcnt = n
  shift : d.rxShift.toNat = v

theorem DemRegs.init_atWindow (c : CfgRegs) (d : DemRegs) : (d.init c.sps).AtWindow c 0 0 :=
  ⟨unspecifiedWindow_length .., rfl, rfl, rfl⟩

/-- Samples that do not complete the window are stored, and that is all. -/
theorem DemRegs.pushSamples_inner (p : Params) (c : CfgRegs) (w : List Sample) (d : DemRegs) (hw : d.rxWin.length = c.sps)
    (h : d.rxFill + w.length < c.sps) :
    ∃ win, d.pushSamples p c w = ([], { d with rxWin := win, rxFill := d.rxFill + w.length }) ∧
      win.length = c.sps ∧ win.take (d.rxFill + w.length) = d.rxWin.take d.rxFill ++ w := by
  induction w generalizing d with
  | nil => exact ⟨d.rxWin, rfl, hw, by simp⟩
  | cons x w ih =>
    rw [List.length_cons] at h
    have hstored : (d.store x).rxWin.take (d.rxFill + 1) = d.rxWin.take d.rxFill ++ [x] := take_writeAt _ _ _ (by omega)
    obtain ⟨win, hrun, hlen, htake⟩ := ih (d.store x) (by rw [DemRegs.store, writeAt_length, hw])
      (by show d.rxFill + 1 + w.length < c.sps; omega)
    refine ⟨win, ?_, hlen, ?_⟩
    · rw [DemRegs.pushSamples, DemRegs.pushSample_inner (by omega), hrun]
      simp [DemRegs.store, Nat.add_assoc, Nat.add_comm 1]
    · rw [show d.rxFill + (x :: w).length = (d.store x).rxFill + w.length by simp [DemRegs.store]; omega, htake]
      show (d.store x).rxWin.take (d.rxFill + 1) ++ w = _
      rw [hstored, List.append_assoc]
      rfl

/-- The bit of a window of finite samples does not depend on the draw when `EPS_RX = 0` (42_demodulator.md R178). -/
theorem windowBit_of_finite {p : Params} (hp : p.epsRx = 0) (c : CfgRegs) {w : List Sample} (hw : ∀ x ∈ w, f32Finite x = true)
    (draw : Bool) :
    windowBit p c draw w =
      surdLt (Nat.log2 c.fftN - 2) (peakPower (Nat.log2 c.fftN - 2) c.bin0 (w.map f32Scaled))
        (peakPower (Nat.log2 c.fftN - 2) c.bin1 (w.map f32Scaled)) := by
  have hall : w.all f32Finite = true := List.all_eq_true.2 hw
  simp [windowBit, hall, insideBand, hp]

/-- A whole window that completes no byte. -/
theorem DemRegs.pushSamples_window {p : Params} {c : CfgRegs} (hp : p.epsRx = 0) (hsps : 1 ≤ c.sps) {w : List Sample}
    (hfin : ∀ x ∈ w, f32Finite x = true) (hlen : w.length = c.sps) {d : DemRegs} {n v : Nat} (hd : d.AtWindow c n v) :
    (n < 7 → (d.pushSamples p c w).1 = [] ∧
      (2 * v + 1 < 256 → (d.pushSamples p c w).2.AtWindow c (n + 1) (2 * v + (windowBit p c false w).toNat))) ∧
    (n = 7 → (d.pushSamples p c w).1 = [BitVec.ofNat 8 (2 * v + (windowBit p c false w).toNat)] ∧
      (d.pushSamples p c w).2.AtWindow c 0 0) := by
  obtain ⟨hwin, hfill, hcnt, hshift⟩ := hd
  -- the window is its last sample and those before it
  obtain ⟨front, x, rfl⟩ : ∃ front x, w = front ++ [x] :=
    ⟨w.dropLast, w.getLast (by rintro rfl; simp at hlen; omega), (List.dropLast_append_getLast _).symm⟩
  rw [List.length_append, List.length_singleton] at hlen
  obtain ⟨win, hrun, hwin', htake⟩ := DemRegs.pushSamples_inner p c front d hwin (by omega)
  rw [hfill, Nat.zero_add, List.take_zero, List.nil_append] at htake
  rw [DemRegs.pushSamples_append, hrun, hfill, Nat.zero_add]
  have hbit : DemRegs.completedBit p c { d with rxWin := win, rxFill := front.length } x = windowBit p c false (front ++ [x]) := by
    rw [DemRegs.completedBit, htake, windowBit_of_finite hp c hfin, windowBit_of_finite hp c hfin]
  refine ⟨fun hn => ?_, fun hn => ?_⟩
  · simp only [DemRegs.pushSamples]
    rw [DemRegs.pushSample_window (d := { d with rxWin := win, rxFill := front.length }) hwin' hlen (by show d.rxBitcnt + 1 ≠ 8; omega),
      hbit]
    refine ⟨rfl, fun hv => ⟨by simpa using hwin', rfl, by simp [hcnt], ?_⟩⟩
    have := Bool.toNat_le (windowBit p c false (front ++ [x]))
    simp only [hshift, BitVec.toNat_ofNat]
    omega
  · simp only [DemRegs.pushSamples]
    rw [DemRegs.pushSample_byte (d := { d with rxWin := win, rxFill := front.length }) hwin' hlen (by show d.rxBitcnt + 1 = 8; omega),
      hbit]
    exact ⟨by simp [hshift], ⟨by simpa using hwin', rfl, rfl, rfl⟩⟩

/-- The number that the first `n` of the bits `f` make, the first one highest. -/
def bitsValue (f : Nat → Bool) : Nat → Nat
  | 0 => 0
  | n + 1 => 2 * bitsValue f n + (f n).toNat

theorem bitsValue_lt (f : Nat → Bool) (n : Nat) : bitsValue f n < 2 ^ n := by
  induction n with
  | zero => simp [bitsValue]
  | succ n ih =>
    have := Bool.toNat_le (f n)
    rw [bitsValue, pow_succ]
    omega

theorem bitsValue_congr {f g : Nat → Bool} {n : Nat} (h : ∀ k < n, f k = g k) : bitsValue f n = bitsValue g n := by
  induction n with
  | zero => rfl
  | succ n ih => rw [bitsValue, bitsValue, ih fun k hk => h k (by omega), h n (by omega)]

/-- The number of a byte, bit 7 first (42_demodulator.md R190). -/
theorem bitsValue_eight (f : Nat → Bool) : bitsValue f 8 = ((List.range 8).map (fun t => (f t).toNat * 2 ^ (7 - t))).sum := by
  simp [bitsValue, List.range_succ]
  ring

/-- The bit of window `k` of a buffer. -/
def bufferBit (p : Params) (c : CfgRegs) (buf : List Sample) (k : Nat) : Bool :=
  windowBit p c false ((buf.drop (k * c.sps)).take c.sps)

theorem bufferBit_append {p : Params} {c : CfgRegs} {a : List Sample} (b : List Sample) {k : Nat}
    (h : (k + 1) * c.sps ≤ a.length) : bufferBit p c (a ++ b) k = bufferBit p c a k := by
  rw [Nat.add_mul, Nat.one_mul] at h
  rw [bufferBit, bufferBit, List.drop_append_of_le_length (by omega), List.take_append_of_le_length (by simp; omega)]

theorem bufferBit_append_add {p : Params} {c : CfgRegs} {a : List Sample} (b : List Sample) {n : Nat}
    (h : a.length = n * c.sps) (k : Nat) : bufferBit p c (a ++ b) (n + k) = bufferBit p c b k := by
  rw [bufferBit, bufferBit, Nat.add_mul, ← h, ← List.drop_drop, List.drop_left]

/-- Fewer than eight windows from the beginning of a byte: no byte, and their bits are in. -/
theorem DemRegs.pushSamples_windows {p : Params} {c : CfgRegs} (hp : p.epsRx = 0) (hsps : 1 ≤ c.sps) {d : DemRegs}
    (hd : d.AtWindow c 0 0) {n : Nat} (hn : n ≤ 7) {w : List Sample} (hfin : ∀ x ∈ w, f32Finite x = true)
    (hlen : w.length = n * c.sps) :
    (d.pushSamples p c w).1 = [] ∧ (d.pushSamples p c w).2.AtWindow c n (bitsValue (bufferBit p c w) n) := by
  induction n generalizing w with
  | zero =>
    obtain rfl : w = [] := by simpa using hlen
    exact ⟨rfl, hd⟩
  | succ n ih =>
    obtain ⟨a, b, rfl, ha⟩ : ∃ a b, w = a ++ b ∧ a.length = n * c.sps :=
      ⟨w.take (n * c.sps), w.drop (n * c.sps), (List.take_append_drop ..).symm, by
        rw [List.length_take, hlen]; exact Nat.min_eq_left (Nat.mul_le_mul_right _ (by omega))⟩
    have hb : b.length = c.sps := by rw [List.length_append, ha, Nat.add_mul] at hlen; omega
    obtain ⟨hnone, hat⟩ := ih (by omega) (fun x hx => hfin x (List.mem_append_left _ hx)) ha
    obtain ⟨hwin, -⟩ := DemRegs.pushSamples_window hp hsps (fun x hx => hfin x (List.mem_append_right _ hx)) hb hat
    obtain ⟨hnone', hat'⟩ := hwin (by omega)
    have hlt := bitsValue_lt (bufferBit p c a) n
    have hpow : 2 ^ n ≤ 2 ^ 6 := Nat.pow_le_pow_right (by norm_num) (by omega)
    have hbits : bitsValue (bufferBit p c (a ++ b)) n = bitsValue (bufferBit p c a) n :=
      bitsValue_congr fun k hk => bufferBit_append b (by rw [ha]; exact Nat.mul_le_mul_right _ hk)
    have hlast : bufferBit p c (a ++ b) n = windowBit p c false b := by
      rw [show n = n + 0 from rfl, bufferBit_append_add b ha, bufferBit, Nat.zero_mul, List.drop_zero, ← hb, List.take_length]
    rw [DemRegs.pushSamples_append, hnone, hnone', bitsValue, hbits, hlast]
    exact ⟨rfl, hat' (by norm_num at hpow; omega)⟩

/-- Eight windows from the beginning of a byte are that byte. -/
theorem DemRegs.pushSamples_byte {p : Params} {c : CfgRegs} (hp : p.epsRx = 0) (hsps : 1 ≤ c.sps) {d : DemRegs}
    (hd : d.AtWindow c 0 0) {w : List Sample} (hfin : ∀ x ∈ w, f32Finite x = true) (hlen : w.length = 8 * c.sps) :
    (d.pushSamples p c w).1 = [BitVec.ofNat 8 (bitsValue (bufferBit p c w) 8)] ∧ (d.pushSamples p c w).2.AtWindow c 0 0 := by
  obtain ⟨a, b, rfl, ha⟩ : ∃ a b, w = a ++ b ∧ a.length = 7 * c.sps :=
    ⟨w.take (7 * c.sps), w.drop (7 * c.sps), (List.take_append_drop ..).symm, by rw [List.length_take, hlen]; omega⟩
  have hb : b.length = c.sps := by rw [List.length_append, ha] at hlen; omega
  obtain ⟨hnone, hat⟩ := DemRegs.pushSamples_windows hp hsps hd le_rfl (fun x hx => hfin x (List.mem_append_left _ hx)) ha
  obtain ⟨-, hwin⟩ := DemRegs.pushSamples_window hp hsps (fun x hx => hfin x (List.mem_append_right _ hx)) hb hat
  obtain ⟨hbyte, hat'⟩ := hwin rfl
  have hbits : bitsValue (bufferBit p c (a ++ b)) 7 = bitsValue (bufferBit p c a) 7 :=
    bitsValue_congr fun k hk => bufferBit_append b (by rw [ha]; exact Nat.mul_le_mul_right _ hk)
  have hlast : bufferBit p c (a ++ b) 7 = windowBit p c false b := by
    rw [show 7 = 7 + 0 from rfl, bufferBit_append_add b ha, bufferBit, Nat.zero_mul, List.drop_zero, ← hb, List.take_length]
  have hvalue : bitsValue (bufferBit p c (a ++ b)) 8 = 2 * bitsValue (bufferBit p c a) 7 + (windowBit p c false b).toNat := by
    rw [← hbits, ← hlast, bitsValue]
  rw [DemRegs.pushSamples_append, hnone, hbyte, hvalue]
  exact ⟨rfl, hat'⟩

/-- The bytes of a buffer, window by window (42_demodulator.md R190). -/
theorem DemRegs.pushSamples_bytes {p : Params} {c : CfgRegs} (hp : p.epsRx = 0) (hsps : 1 ≤ c.sps) (n : Nat) {d : DemRegs}
    (hd : d.AtWindow c 0 0) {buf : List Sample} (hfin : ∀ x ∈ buf, f32Finite x = true) (hn : buf.length / c.sps / 8 = n) :
    (d.pushSamples p c buf).1 =
      (List.range n).map (fun q => BitVec.ofNat 8 (bitsValue (fun t => bufferBit p c buf (8 * q + t)) 8)) := by
  induction n generalizing d buf with
  | zero =>
    -- fewer than eight windows, and samples that complete none
    have hk : buf.length / c.sps ≤ 7 := by omega
    have hdiv : buf.length / c.sps * c.sps ≤ buf.length := Nat.div_mul_le_self ..
    have hrest : buf.length < (buf.length / c.sps + 1) * c.sps := by
      rw [Nat.mul_comm]; exact Nat.lt_mul_div_succ _ (by omega)
    rw [Nat.add_mul, Nat.one_mul] at hrest
    have hwhole := DemRegs.pushSamples_windows hp hsps hd hk (w := buf.take (buf.length / c.sps * c.sps))
      (fun x hx => hfin x (List.mem_of_mem_take hx)) (by rw [List.length_take, Nat.min_eq_left hdiv])
    obtain ⟨hnone, hat⟩ := hwhole
    obtain ⟨win, hrun, -⟩ := DemRegs.pushSamples_inner p c (buf.drop (buf.length / c.sps * c.sps)) _ hat.window
      (by rw [hat.fill, List.length_drop]; omega)
    rw [← List.take_append_drop (buf.length / c.sps * c.sps) buf, DemRegs.pushSamples_append, hnone, hrun]
    rfl
  | succ n ih =>
    have hlong : 8 * c.sps ≤ buf.length := by
      have : 8 ≤ buf.length / c.sps := by omega
      exact (Nat.le_div_iff_mul_le (by omega)).1 this
    obtain ⟨a, b, rfl, ha⟩ : ∃ a b, buf = a ++ b ∧ a.length = 8 * c.sps :=
      ⟨buf.take (8 * c.sps), buf.drop (8 * c.sps), (List.take_append_drop ..).symm, by rw [List.length_take]; omega⟩
    obtain ⟨hbyte, hat⟩ := DemRegs.pushSamples_byte hp hsps hd (fun x hx => hfin x (List.mem_append_left _ hx)) ha
    have hb : b.length / c.sps / 8 = n := by
      rw [List.length_append, ha, Nat.add_comm, Nat.add_mul_div_right _ _ (by omega)] at hn
      omega
    rw [DemRegs.pushSamples_append, hbyte, ih hat (fun x hx => hfin x (List.mem_append_right _ hx)) hb,
      List.range_succ_eq_map, List.map_cons, List.map_map, List.singleton_append]
    have hfirst : bitsValue (fun t => bufferBit p c (a ++ b) (8 * 0 + t)) 8 = bitsValue (bufferBit p c a) 8 :=
      bitsValue_congr fun t ht => by
        rw [Nat.mul_zero, Nat.zero_add, bufferBit_append b (by rw [ha]; exact Nat.mul_le_mul_right _ ht)]
    have hlater : ∀ q, bitsValue (fun t => bufferBit p c (a ++ b) (8 * q.succ + t)) 8 =
        bitsValue (fun t => bufferBit p c b (8 * q + t)) 8 := fun q =>
      bitsValue_congr fun t _ => by
        rw [show 8 * q.succ + t = 8 + (8 * q + t) by omega, bufferBit_append_add b ha]
    simp only [hfirst, hlater, Function.comp_def]

/-! Silence: every number of the transform is 0. -/

@[simp] theorem surdAdd_zero_zero (n : Nat) : surdAdd n (surdOfInt n 0) (surdOfInt n 0) = surdOfInt n 0 := by
  induction n with
  | zero => rfl
  | succ n ih => exact congrArg₂ Prod.mk ih ih

@[simp] theorem surdNeg_zero (n : Nat) : surdNeg n (surdOfInt n 0) = surdOfInt n 0 := by
  induction n with
  | zero => rfl
  | succ n ih => exact congrArg₂ Prod.mk ih ih

@[simp] theorem surdSub_zero_zero (n : Nat) : surdSub n (surdOfInt n 0) (surdOfInt n 0) = surdOfInt n 0 := by
  simp [surdSub]

@[simp] theorem surdMulGen_zero (n : Nat) : surdMulGen n (surdOfInt n 0) = surdOfInt n 0 := by
  induction n with
  | zero => rfl
  | succ n ih => exact congrArg₂ Prod.mk (by simp [surdOfInt, ih]) rfl

@[simp] theorem surdMul_zero_zero (n : Nat) : surdMul n (surdOfInt n 0) (surdOfInt n 0) = surdOfInt n 0 := by
  induction n with
  | zero => rfl
  | succ n ih => exact congrArg₂ Prod.mk (by simp [surdOfInt, ih]) (by simp [surdOfInt, ih])

@[simp] theorem surdSign_zero (n : Nat) : surdSign n (surdOfInt n 0) = 0 := by
  induction n with
  | zero => rfl
  | succ n ih => simp [surdSign, surdOfInt, ih]

theorem cosineSum_zeros (n k : Nat) : cosineSum n (List.replicate k 0) = surdOfInt n 0 := by
  have hfold : ∀ k, (List.replicate k (0 : Int)).foldr
      (fun c s => (surdSub n (surdAdd n (surdOfInt n c) (surdMulGen n s.1)) s.2, s.1)) (surdOfInt n 0, surdOfInt n 0) =
        (surdOfInt n 0, surdOfInt n 0) := by
    intro k
    induction k with
    | zero => rfl
    | succ k ih => simp [List.replicate_succ, ih]
  simp [cosineSum, hfold]

theorem binCoefficients_zeros (n k len : Nat) : binCoefficients n k (List.replicate len 0) = List.replicate n 0 := by
  have hstep : ∀ (es : List (Int × Nat)), (∀ e ∈ es, e.1 = 0) → ∀ acc : List Int,
      es.foldl (fun acc e => acc.modify ((k * e.2) % n) (fun c => c + e.1)) acc = acc := by
    intro es
    induction es with
    | nil => intros; rfl
    | cons e es ih =>
      intro he acc
      have h0 : e.1 = 0 := he e (by simp)
      have hid : (fun c : Int => c + 0) = id := by funext c; simp
      rw [List.foldl_cons, h0, hid, List.modify_id, ih fun e' he' => he e' (List.mem_cons_of_mem _ he')]
  refine hstep _ (fun e he => ?_) _
  have := List.fst_mem_of_mem_zipIdx he
  exact (List.mem_replicate.1 this).2

theorem peakPower_zeros (m bin len : Nat) : peakPower m bin (List.replicate len 0) = surdOfInt m 0 := by
  have hpower : ∀ k, binPower m k (List.replicate len 0) = surdOfInt m 0 := by
    intro k
    simp [binPower, binCoefficients_zeros, cosineSum_zeros]
  have hfold : ∀ ks : List Nat, ks.foldl (fun best k => surdMax m best (binPower m k (List.replicate len 0))) (surdOfInt m 0) =
      surdOfInt m 0 := by
    intro ks
    induction ks with
    | nil => rfl
    | cons k ks ih => simp only [List.foldl_cons, hpower, surdMax, ite_self]; simpa only [hpower, surdMax, ite_self] using ih
  exact hfold _

end Sys2Proof.Machine

namespace Sys2Proof.Proofs
open Sys2Proof.Machine

/-- Settles O47: with DEM and FDEC free the refusals come in the order of R311. -/
theorem receiveRefusals : Obligations.ReceiveRefusals := by
  unfold Obligations.ReceiveRefusals
  intro i s hdem hfdec
  refine ⟨fun hv hi => ?_, ?_⟩
  · rcases hi with rfl | ⟨w, rfl⟩ | ⟨w, rfl⟩ | ⟨n, rfl⟩
    · rw [exec_demInit_of_free hdem, hv]; rfl
    · rw [exec_demDecode_of_free hdem, hv]; rfl
    · rw [exec_demPush_of_free hdem, hv]; rfl
    · rw [exec_rxRecv_of_unconfigured hdem hfdec hv]; rfl
  · rintro w rfl
    refine ⟨fun hv hne => ?_, fun hv hlen => ?_⟩
    · rw [exec_detClassify_of_free hdem, if_pos ⟨hv, hne⟩]; rfl
    · rw [exec_detClassify_of_free hdem, if_neg, hv]
      · rfl
      · rintro ⟨hc, hne⟩
        rcases hlen with h | h
        · simp [h] at hc
        · exact hne h

/-- Settles O48: by induction on the first part. -/
theorem pushSplitsAnywhere : Obligations.PushSplitsAnywhere := by
  unfold Obligations.PushSplitsAnywhere
  intro p c d a b
  rw [DemRegs.pushSamples_append]
  exact ⟨rfl, rfl⟩

/-- Settles O44: exponent field 0xFF is not a finite sample, so no transform is made. -/
theorem nonNumbersGiveADraw : Obligations.NonNumbersGiveADraw := by
  unfold Obligations.NonNumbersGiveADraw
  rintro p c draw w ⟨x, hx, hexp⟩
  have hnot : ¬ w.all f32Finite = true := fun hall => by
    have := List.all_eq_true.1 hall x hx
    simp [f32Finite, f32Exponent, hexp] at this
  rw [windowBit, if_neg hnot]

/-- Settles O43: both peaks of a window of zeros are 0. -/
theorem silenceIsZero : Obligations.SilenceIsZero := by
  unfold Obligations.SilenceIsZero
  intro p c draw n hp
  have hzero : f32Scaled 0#32 = 0 := by decide
  rw [windowBit_of_finite hp c (fun x hx => by rw [(List.mem_replicate.1 hx).2]; exact f32Finite_zero), List.map_replicate, hzero,
    peakPower_zeros, peakPower_zeros]
  simp [surdLt]

/-- Settles O41: the acceptance, in serial execution and with turns scheduled, and the turn that ends it. -/
theorem detClassifyCompletes : Obligations.DetClassifyCompletes := by
  unfold Obligations.DetClassifyCompletes
  intro s w hv hlen
  have haccept : s.dem.op = none → exec (.detClassify w) s = .next (s.startDem (.classify w) 1) := by
    intro hdem
    rw [exec_detClassify_of_free hdem, if_neg (fun h => h.2 hlen), hv, if_pos rfl]
  refine ⟨fun hdem hs => ?_, fun hdem hs => ?_, fun ts hop hs => ?_⟩
  · rw [haccept hdem]
    simp only [State.startDem, State.demComplete, hs, List.isEmpty_nil, if_true, State.demConsumeAll, State.demConsume,
      DemRegs.classify, ← hdem]
    rfl
  · rw [haccept hdem, State.startDem_scheduled hs (op := .classify w) trivial]
  · rw [step_dem hs]
    simp only [State.demStep, hop, State.demConsume, DemRegs.classify]
    rfl

/-- Settles O45: the three outcomes of one sample, and the turn of DEM that does this step. -/
theorem perSampleStep : Obligations.PerSampleStep := by
  unfold Obligations.PerSampleStep
  refine ⟨fun p c d x hw => ⟨by rw [DemRegs.pushSample_rxWin_length, hw], fun h => ?_, fun h => ?_⟩, fun s ts x rest out hs => ?_⟩
  · rw [DemRegs.pushSample_inner h]
    exact ⟨rfl, rfl, take_writeAt _ _ _ (by omega), rfl, rfl⟩
  · refine ⟨d.completedBit p c x, rfl, ?_, fun hb => ?_, fun hb => ?_⟩
    · by_cases hb : d.rxBitcnt + 1 = 8
      · rw [DemRegs.pushSample_byte hw h hb]
      · rw [DemRegs.pushSample_window hw h hb]
    · rw [DemRegs.pushSample_window hw h hb]
      exact ⟨rfl, rfl, rfl⟩
    · rw [DemRegs.pushSample_byte hw h hb]
      exact ⟨rfl, rfl, rfl⟩
  · rw [step_dem hs]
    refine ⟨fun hop hne => ?_, fun hop => ?_, fun hop hne => ?_, fun hop => ?_⟩
    · obtain ⟨y, rest, rfl⟩ := List.exists_cons_of_ne_nil hne
      simp only [State.demStep, hop, State.demConsume, State.demComplete]
    · simp only [State.demStep, hop, State.demConsume, State.demComplete]
      rfl
    · obtain ⟨y, rest, rfl⟩ := List.exists_cons_of_ne_nil hne
      simp only [State.demStep, hop, State.demConsume, State.demComplete]
    · simp only [State.demStep, hop, State.demConsume, State.demComplete]
      rfl

/-- Settles O46: the operations in serial execution, their acceptance with turns scheduled, and their finishing. -/
theorem demodulatorCompletes : Obligations.DemodulatorCompletes := by
  unfold Obligations.DemodulatorCompletes
  intro s w hv
  refine ⟨fun hdem => ?_, fun hdem hs => ⟨?_, ?_⟩, fun hdem hs hw => ⟨?_, ?_⟩, fun out hs hc hm hf hw => ⟨fun hop => ?_, fun hop => ?_⟩⟩
  · rw [exec_demInit_of_free hdem, hv, if_pos rfl]; rfl
  · rw [exec_demPush_of_free hdem, hv, if_pos rfl, State.startDem_push hdem hs]
  · rw [exec_demDecode_of_free hdem, hv, if_pos rfl,
      State.startDem_decode (s := { s with dem := s.dem.init s.cfg.sps }) hdem hs]
    rfl
  · rw [exec_demPush_of_free hdem, hv, if_pos rfl, State.startDem_scheduled hs (op := .push w []) hw]
  · rw [exec_demDecode_of_free hdem, hv, if_pos rfl,
      State.startDem_scheduled (s := { s with dem := s.dem.init s.cfg.sps }) hs (op := .decode w []) hw]
    rfl
  · have hfinish : s.demFinish = s.demConsumeAll w.length := by simp only [State.demFinish, hop]
    rw [State.demConsumeAll_push _ s w out hop hw le_rfl] at hfinish
    rw [step_of_dem_only hs hc hm (by rw [hfinish]; exact hf), hfinish]
  · have hfinish : s.demFinish = s.demConsumeAll w.length := by simp only [State.demFinish, hop]
    rw [State.demConsumeAll_decode _ s w out hop hw le_rfl] at hfinish
    rw [step_of_dem_only hs hc hm (by rw [hfinish]; exact hf), hfinish]

/-- Settles O49: the buffer byte by byte, each byte the bits of its eight windows. -/
theorem decodeClosedForm : Obligations.DecodeClosedForm := by
  unfold Obligations.DecodeClosedForm
  intro p c d buf hp hsps hfin
  rw [DemRegs.pushSamples_bytes hp hsps _ (DemRegs.init_atWindow c d) hfin rfl]
  refine ⟨by simp, fun q hq => ?_⟩
  have hlt := bitsValue_lt (fun t => bufferBit p c buf (8 * q + t)) 8
  rw [List.getD_eq_getElem?_getD, List.getElem?_map, List.getElem?_range hq, Option.map_some, Option.getD_some, BitVec.toNat_ofNat,
    Nat.mod_eq_of_lt hlt, bitsValue_eight]
  rfl

end Sys2Proof.Proofs
end

-- ==== Proofs: 10_state.md and 20_memory.md, what every step keeps ====
section
/-!
SUPPORT. Proof of the statement on the invariants of 10_state.md R23 to R25, 20_memory.md R61 and R80, 44_frame_decoder.md R260: unit by
unit, then operation by operation, then for a step.
-/

-- One declaration after another: fewer threads, and so less memory, at a time.
set_option Elab.async false

namespace Sys2Proof.Machine

/-! Frames: what a sound state does not depend on. -/

/-- The invariant speaks of the parameters, the units and `rx_bytes` only. -/
theorem Inv.congr {s t : State} (h : Inv s) (hparams : t.params = s.params) (hcfg : t.cfg = s.cfg) (hmod : t.mod = s.mod)
    (hdem : t.dem = s.dem) (hfdec : t.fdec = s.fdec) (hrx : t.rxBytes = s.rxBytes) : Inv t := by
  obtain ⟨h1, h2, h3, h4, h5, h6, h7⟩ := h
  exact ⟨hparams ▸ h1, by rw [hparams, hcfg]; exact h2, by rw [hcfg, hmod]; exact h3, by rw [hcfg, hdem]; exact h4,
    by rw [hparams, hfdec]; exact h5, by rw [hfdec]; exact h6, by rw [hrx]; exact h7⟩

theorem AnswerOnly.keeps_inv {s t : State} (h : AnswerOnly s t) (hs : Inv s) : Inv t :=
  hs.congr (by rw [h]) (by rw [h]) (by rw [h]) (by rw [h]) (by rw [h]) (by rw [h])

theorem State.respond_keeps_inv {s : State} (hs : Inv s) (st : Status) (v : Value) : Inv (s.respond st v) :=
  hs.congr rfl rfl rfl rfl rfl rfl

theorem State.requeue_keeps_inv {s : State} (hs : Inv s) (i : Instr) : Inv (s.requeue i) :=
  hs.congr rfl rfl rfl rfl rfl rfl

/-- Work of the transmit side keeps a sound state sound if it does so with MOD. -/
theorem TransmitOnly.keeps_inv {s t : State} (h : TransmitOnly s t) (hs : Inv s) (hmod : ModInv s.cfg t.mod) : Inv t := by
  obtain ⟨h1, h2, -, h4, h5, h6, h7⟩ := hs
  rw [h]
  exact ⟨h1, h2, hmod, h4, h5, h6, h7⟩

/-- While `cfg_valid = 1` a symbol has a sample. -/
theorem CfgInv.sps_pos {p : Params} {r : CfgRegs} (h : CfgInv p r) (hv : r.cfgValid = true) : 1 ≤ r.sps :=
  (h.config hv).symbol

theorem CfgInv.sps_pos_of_demValid {p : Params} {r : CfgRegs} (h : CfgInv p r) (hv : r.demValid = true) : 1 ≤ r.sps :=
  h.sps_pos (h.demod hv).1

/-! The configuration unit. -/

theorem baseChecks_of_conditions {nMax : Option Nat} {c : ModConfig} {k : Nat} (h : conditionsHoldUpTo nMax c k) (hk : 8 ≤ k) :
    BaseChecks c where
  sampleRate := h 1 (by omega) (by omega)
  freq0 := (h 2 (by omega) (by omega)).1
  freq1 := (h 2 (by omega) (by omega)).2
  distinct := h 3 (by omega) (by omega)
  symbolDuration := h 4 (by omega) (by omega)
  rampDuration := h 5 (by omega) (by omega)
  amplitude := h 6 (by omega) (by omega)

/-- With conditions 1 to 8 the derived registers are those of the operands (20_memory.md R80). -/
theorem configSound_deriveTransform {nMax : Option Nat} {c : ModConfig} {k : Nat} (h : conditionsHoldUpTo nMax c k) (hk : 8 ≤ k)
    (r : CfgRegs) (v : Bool) : ConfigSound { (r.writeConf c).deriveSymbol.deriveTransform with demValid := v } where
  base := baseChecks_of_conditions h hk
  sps := rfl
  rampN := rfl
  symbol := h 7 (by omega) (by omega)
  ramps := h 8 (by omega) (by omega)
  fftN := rfl
  bin0 := rfl
  bin1 := rfl
  fftPlan := rfl

theorem cfgInv_loaded {p : Params} {c : ModConfig} (h : conditionsHoldUpTo p.nMax c 11) (r : CfgRegs) : CfgInv p (r.loaded c) where
  config _ := configSound_deriveTransform h (by omega) r true
  demod _ := ⟨rfl, ⟨h 9 (by omega) (by omega), h 10 (by omega) (by omega), h 11 (by omega) (by omega)⟩⟩

theorem cfgInv_writtenBefore {p : Params} {c : ModConfig} {k : Nat} (h : FirstFailed p.nMax c k) (r : CfgRegs) :
    CfgInv p (r.writtenBefore c k) := by
  obtain ⟨-, hdem, hvalid, -⟩ := r.writtenBefore_spec c k
  refine ⟨fun hv => ?_, fun hv => by rw [hdem] at hv; cases hv⟩
  have hk : 9 ≤ k := hvalid.1 hv
  rw [CfgRegs.writtenBefore, if_neg (by omega), if_neg (by omega)]
  exact configSound_deriveTransform h.2.1 (by omega) r false

/-! The modulator. -/

/-- An idle modulator is sound under every configuration. -/
theorem ModInv.of_idle {c c' : CfgRegs} {m : ModRegs} (h : ModInv c m) (hidle : m.active = false) : ModInv c' m := by
  have hheld : m.held = false := (h.idle hidle).2.2.1
  exact ⟨h.idle, by simp [hidle], by simp [hheld], by simp [hidle], by simp [hheld], by simp [hheld]⟩

/-- A refusal kept for later. -/
theorem ModInv.withLate {c : CfgRegs} {m : ModRegs} (h : ModInv c m) (ha : m.active = true) (late : List Response) :
    ModInv c { m with late := late } :=
  ⟨fun hidle => absurd hidle (by simp [ha]), h.configured, h.counters, h.between, h.lastByte, h.moreBytes⟩

/-- The modulator after some steps, the answers that waited sent if it has become idle. -/
def ModRegs.settled (m : ModRegs) : ModRegs := if m.active then m else { m with late := [] }

theorem ModRegs.settled_of_active {m : ModRegs} (h : m.active = true) : m.settled = m := if_pos h

theorem ModRegs.settled_of_idle {m : ModRegs} (h : m.active = false) : m.settled = { m with late := [] } := if_neg (by simp [h])

/-- Taking the first byte of what stands on `tx_bytes`, by an active modulator or by an idle one that a call wakes. -/
theorem ModInv.take {c : CfgRegs} {m : ModRegs} (hv : c.cfgValid = true) (hsps : 1 ≤ c.sps) (hb : m.bitIdx = 0) (hs : m.sampIdx = 0)
    (htx : EndsWithLast m.tx) : ModInv c m.take := by
  obtain ⟨bytes, hne, htx⟩ := htx
  obtain ⟨b, rest, rfl⟩ := List.exists_cons_of_ne_nil hne
  rw [ModRegs.take_txItems htx]
  refine ⟨nofun, fun _ => hv, fun _ => ⟨by simp [hb], by simp only [hs]; omega⟩, nofun, fun _ hl => ?_, fun _ hl => ?_⟩
  · obtain rfl : rest = [] := by simpa using hl
    rfl
  · exact ⟨rest, by simpa using hl, rfl⟩

/-- The counters moved after one sample (41_modulator.md R156). -/
theorem ModInv.advance {c : CfgRegs} {m : ModRegs} (h : ModInv c m) (ha : m.active = true) (hh : m.held = true) :
    ModInv c (m.advance c).settled := by
  obtain ⟨hbit, hsamp⟩ := h.counters hh
  have hv := h.configured ha
  by_cases hinner : m.sampIdx + 1 < c.sps
  · rw [ModRegs.advance_sample hinner, ModRegs.settled_of_active (m := { m with sampIdx := m.sampIdx + 1 }) ha]
    exact ⟨fun hidle => absurd hidle (by simp [ha]), fun _ => hv, fun _ => ⟨hbit, hinner⟩, fun _ hnot => absurd hnot (by simp [hh]),
      h.lastByte, h.moreBytes⟩
  have hlast : m.sampIdx + 1 = c.sps := by omega
  by_cases hb7 : m.bitIdx < 7
  · rw [ModRegs.advance_symbol hlast hb7,
      ModRegs.settled_of_active (m := { m with sampIdx := 0, firstSym := false, bitIdx := m.bitIdx + 1 }) ha]
    exact ⟨fun hidle => absurd hidle (by simp [ha]), fun _ => hv, fun _ => ⟨by show m.bitIdx + 1 < 8; omega, by show 0 < c.sps; omega⟩,
      fun _ hnot => absurd hnot (by simp [hh]), h.lastByte, h.moreBytes⟩
  rw [ModRegs.advance_byte hlast (by omega)]
  cases hl : m.isLast with
  | true =>
    rw [ModRegs.settled_of_idle rfl]
    exact ⟨fun _ => ⟨rfl, rfl, rfl, h.lastByte hh hl, rfl⟩, nofun, nofun, nofun, nofun, nofun⟩
  | false =>
    rw [ModRegs.settled_of_active rfl]
    exact ⟨nofun, fun _ => hv, nofun, fun _ _ => ⟨rfl, rfl, h.moreBytes hh hl⟩, nofun, nofun⟩

/-- One atomic step of MOD (41_modulator.md R152, R153, R156). -/
theorem ModInv.step {p : Params} {c : CfgRegs} {m : ModRegs} (h : ModInv c m) (hsps : c.cfgValid = true → 1 ≤ c.sps)
    (ha : m.active = true) : ModInv c (m.step p c).2.settled := by
  cases hh : m.held with
  | true =>
    rw [ModRegs.step_held p c m ha hh]
    exact h.advance ha hh
  | false =>
    obtain ⟨hbit, hsamp, htx⟩ := h.between ha hh
    have hv := h.configured ha
    have htake := ModInv.take hv (hsps hv) hbit hsamp htx
    rw [ModRegs.step_take p c m ha hh]
    have hactive : m.take.active = true := by
      obtain ⟨bytes, hne, htx⟩ := htx
      obtain ⟨b, rest, rfl⟩ := List.exists_cons_of_ne_nil hne
      rw [ModRegs.take_txItems htx]
    rwa [ModRegs.settled_of_active hactive]

/-- Several of them. -/
theorem ModInv.run {p : Params} {c : CfgRegs} (hsps : c.cfgValid = true → 1 ≤ c.sps) (n : Nat) {m : ModRegs} (h : ModInv c m)
    (ha : m.active = true) : ModInv c (m.run p c n).2.settled := by
  induction n generalizing m with
  | zero => rwa [ModRegs.run, ModRegs.settled_of_active ha]
  | succ n ih =>
    have hstep := h.step (p := p) hsps ha
    rw [ModRegs.run, if_pos ha]
    show ModInv c (ModRegs.run p c n (m.step p c).2).2.settled
    cases ha' : (m.step p c).2.active with
    | true => exact ih (by rwa [ModRegs.settled_of_active ha'] at hstep) ha'
    | false => rwa [ModRegs.run_idle _ _ _ _ ha']

/-- The core keeps a sound state sound when MOD does so with its steps. -/
theorem State.modAdvance_keeps_inv {s : State} (hs : Inv s) {r : List PcmItem × ModRegs}
    (hr : s.mod.active = true → ModInv s.cfg r.2.settled) (hidle : s.mod.active = false → r.2 = s.mod) : Inv (s.modAdvance r) := by
  refine (s.modAdvance_transmitOnly r).keeps_inv hs ?_
  rw [State.modAdvance_eq]
  cases ha : s.mod.active with
  | true =>
    have := hr ha
    cases hr2 : r.2.active with
    | true => rw [ModRegs.settled_of_active hr2] at this; simpa [hr2] using this
    | false => rw [ModRegs.settled_of_idle hr2] at this; simpa [hr2] using this
  | false => rw [hidle ha]; exact hs.mod

theorem State.modStep_keeps_inv {s : State} (hs : Inv s) : Inv s.modStep :=
  State.modAdvance_keeps_inv hs (hs.mod.step hs.cfg.sps_pos) fun hidle => by simp [ModRegs.step, hidle]

theorem State.modFinish_keeps_inv {s : State} (hs : Inv s) : Inv s.modFinish :=
  State.modAdvance_keeps_inv hs (hs.mod.run hs.cfg.sps_pos _) fun hidle => by rw [ModRegs.run_idle _ _ _ _ hidle]

/-- An accepted call to transmit. -/
theorem State.startEncode_keeps_inv {s : State} (hs : Inv s) (hv : s.cfg.cfgValid = true) (hidle : s.mod.active = false)
    (bytes : List Byte) : Inv (s.startEncode bytes) := by
  cases bytes with
  | nil => rw [State.startEncode_nil]; exact State.respond_keeps_inv hs _ _
  | cons b rest =>
    obtain ⟨hbit, hsamp, -⟩ := hs.mod.idle hidle
    have hmod : ModInv s.cfg (ModRegs.take { s.mod with tx := txItems (b :: rest) }) :=
      ModInv.take hv (hs.cfg.sps_pos hv) hbit hsamp ⟨b :: rest, by simp, rfl⟩
    have htaken : Inv { s with mod := ModRegs.take { s.mod with tx := txItems (b :: rest) } } :=
      TransmitOnly.keeps_inv (s := s) rfl hs hmod
    simp only [State.startEncode]
    split
    · exact State.modFinish_keeps_inv htaken
    · exact htaken

theorem State.refuseMod_keeps_inv {s : State} (hs : Inv s) (st : Status) : Inv (s.refuseMod st) := by
  cases ha : s.mod.active with
  | true =>
    rw [refuseMod_active ha]
    exact TransmitOnly.keeps_inv (s := s) rfl hs (hs.mod.withLate ha _)
  | false =>
    rw [State.refuseMod_idle _ _ ha]
    exact State.respond_keeps_inv hs _ _

/-! The demodulator. -/

/-- The demodulator with its operation over. -/
theorem DemInv.idle {c : CfgRegs} {d : DemRegs} (h : DemInv c d) : DemInv c { d with op := none } :=
  ⟨h.bitcnt, h.shift, h.window, h.fill, nofun, trivial, nofun⟩

/-- The demodulator with an operation in progress. -/
theorem DemInv.withOp {c : CfgRegs} {d : DemRegs} (h : DemInv c d) (hv : c.demValid = true) {op : DemOp}
    (hpending : demOpPending (some op)) (hwindow : ∀ w, op = .classify w → w.length = c.sps) : DemInv c { d with op := some op } :=
  ⟨h.bitcnt, h.shift, h.window, h.fill, fun _ => hv, hpending, fun w hw => hwindow w (Option.some.inj hw)⟩

/-- A receive session just begun (40_config.md R137). -/
theorem demInv_init {c : CfgRegs} (hsps : c.demValid = true → 1 ≤ c.sps) (d : DemRegs) :
    DemInv c (DemRegs.init c.sps { d with op := none }) :=
  ⟨by simp [DemRegs.init], by simp [DemRegs.init], unspecifiedWindow_length .., hsps, nofun, trivial, nofun⟩

/-- The per-sample step (42_demodulator.md R183 to R186). -/
theorem DemInv.pushSample {p : Params} {c : CfgRegs} {d : DemRegs} (h : DemInv c d) (hv : c.demValid = true) (x : Sample) :
    DemInv c (d.pushSample p c x).2 := by
  have hfill := h.fill hv
  have hbit := Bool.toNat_le (d.completedBit p c x)
  have hshift := h.shift
  have hwindow : (writeAt d.rxWin d.rxFill x).length = c.sps := (writeAt_length ..).trans h.window
  by_cases hinner : d.rxFill + 1 < c.sps
  · rw [DemRegs.pushSample_inner hinner]
    exact ⟨h.bitcnt, h.shift, hwindow, fun _ => hinner, h.configured, h.pending, h.classified⟩
  have hlast : d.rxFill + 1 = c.sps := by omega
  by_cases hbyte : d.rxBitcnt + 1 = 8
  · rw [DemRegs.pushSample_byte h.window hlast hbyte]
    exact ⟨by simp, by simp, hwindow, fun _ => by show 0 < c.sps; omega, h.configured, h.pending, h.classified⟩
  · rw [DemRegs.pushSample_window h.window hlast hbyte]
    refine ⟨?_, ?_, hwindow, fun _ => by show 0 < c.sps; omega, h.configured, h.pending, h.classified⟩
    · have := h.bitcnt
      show d.rxBitcnt + 1 < 8
      omega
    · show (BitVec.ofNat 8 _).toNat < 2 ^ (d.rxBitcnt + 1)
      rw [BitVec.toNat_ofNat, pow_succ]
      exact (Nat.mod_le _ _).trans_lt (by omega)

/-- The receive side changed soundly. -/
theorem Inv.withReceive {s t : State} (hs : Inv s) (h : ReceiveOnly s t) (hdem : DemInv s.cfg t.dem) (hfdec : FdecInv s.params t.fdec)
    (hfeed : feedPending t.fdec.op) (hrx : t.rxBytes = []) : Inv t := by
  obtain ⟨h1, h2, h3, -, -, -, -⟩ := hs
  rw [h]
  exact ⟨h1, h2, h3, hdem, hfdec, hfeed, hrx⟩

/-- Only DEM and answers changed. -/
theorem Inv.withDem {s : State} (hs : Inv s) {d : DemRegs} (hd : DemInv s.cfg d) : Inv { s with dem := d } :=
  hs.withReceive (t := { s with dem := d }) rfl hd hs.fdec hs.feed hs.rxBytes

/-- A state that is sound but for an operation of DEM that may have nothing left to do is sound after it has answered. -/
theorem State.demComplete_keeps_inv {s : State} (hs : Inv s) (hv : s.cfg.demValid = true) (op : DemOp)
    (hwindow : ∀ w, op = .classify w → w.length = s.cfg.sps) :
    Inv ({ s with dem := { s.dem with op := some op } } : State).demComplete := by
  have hsps := hs.cfg.sps_pos_of_demValid
  by_cases hpending : demOpPending (some op)
  · have hsame : ({ s with dem := { s.dem with op := some op } } : State).demComplete =
        { s with dem := { s.dem with op := some op } } := State.demComplete_of_pending rfl hpending
    rw [hsame]
    exact hs.withDem (hs.dem.withOp hv hpending hwindow)
  cases op with
  | push rest out =>
    obtain rfl : rest = [] := not_not.1 hpending
    exact State.respond_keeps_inv (hs.withDem hs.dem.idle) _ _
  | decode rest out =>
    obtain rfl : rest = [] := not_not.1 hpending
    exact State.respond_keeps_inv (hs.withDem (demInv_init hsps _)) _ _
  | classify w => exact absurd trivial hpending
  | recv left sent =>
    obtain rfl : left = 0 := not_not.1 hpending
    exact State.respond_keeps_inv (hs.withDem hs.dem.idle) _ _

theorem State.demConsume_keeps_inv {s : State} (hs : Inv s) : Inv s.demConsume := by
  have hsample : s.cfg.demValid = true → ∀ x op, (∀ w, op ≠ .classify w) →
      Inv ({ s with dem := { (s.dem.pushSample s.params s.cfg x).2 with op := some op } } : State).demComplete := by
    intro hv x op hop
    exact State.demComplete_keeps_inv (hs.withDem (hs.dem.pushSample (p := s.params) hv x)) hv op fun w hw => absurd hw (hop w)
  unfold State.demConsume
  split
  · next x rest out hop => exact hsample (hs.dem.configured (by rw [hop]; rfl)) x _ nofun
  · next x rest out hop => exact hsample (hs.dem.configured (by rw [hop]; rfl)) x _ nofun
  · next w _ =>
    have hclassified : DemInv s.cfg { (s.dem.classify s.params s.cfg w).2 with op := none } :=
      ⟨hs.dem.bitcnt, hs.dem.shift, hs.dem.window, hs.dem.fill, nofun, trivial, nofun⟩
    exact State.respond_keeps_inv (hs.withDem hclassified) _ _
  · exact hs

theorem State.demConsumeAll_keeps_inv (n : Nat) {s : State} (hs : Inv s) : Inv (s.demConsumeAll n) := by
  induction n generalizing s with
  | zero => exact hs
  | succ n ih => exact ih (State.demConsume_keeps_inv hs)

/-- One sample of the body of RX.RECV (45_composition.md R283). -/
theorem State.recvSample_keeps_inv {s : State} (hs : Inv s) (hv : s.cfg.demValid = true) (x : Sample) : Inv (s.recvSample x).2 := by
  refine hs.withReceive (s.recvSample_receiveOnly x) ?_ ?_ ?_ ?_ <;> rw [State.recvSample_eq s x hs.rxBytes]
  · exact hs.dem.pushSample hv x
  · exact feedBytes_keeps_fdecInv hs.params.cap hs.fdec _
  · show feedPending (feedBytes s.params s.fdec _).1.op
    rw [feedBytes_op]
    exact hs.feed
  · exact hs.rxBytes

theorem State.recvConsume_keeps_inv {s : State} (hs : Inv s) : Inv s.recvConsume := by
  unfold State.recvConsume
  split
  · next left sent x rest hop hin =>
    have hv : s.cfg.demValid = true := hs.dem.configured (by rw [hop]; rfl)
    have hin : Inv { s with pcmIn := rest } := hs.congr rfl rfl rfl rfl rfl rfl
    have hcfg : ({ s with pcmIn := rest }.recvSample x).2.cfg = s.cfg := by
      rw [State.recvSample_receiveOnly { s with pcmIn := rest } x]
    exact State.demComplete_keeps_inv (State.recvSample_keeps_inv hin hv x) (by rw [hcfg]; exact hv) _ nofun
  · exact hs

theorem State.recvConsumeAll_keeps_inv (n : Nat) {s : State} (hs : Inv s) : Inv (s.recvConsumeAll n) := by
  induction n generalizing s with
  | zero => exact hs
  | succ n ih => exact ih (State.recvConsume_keeps_inv hs)

theorem State.demStep_keeps_inv {s : State} (hs : Inv s) : Inv s.demStep := by
  unfold State.demStep
  split
  · exact State.demConsume_keeps_inv hs
  · exact State.demConsume_keeps_inv hs
  · exact State.demConsume_keeps_inv hs
  · exact State.recvConsume_keeps_inv hs
  · exact hs

theorem State.demFinish_keeps_inv {s : State} (hs : Inv s) : Inv s.demFinish := by
  unfold State.demFinish
  split
  · exact State.demConsumeAll_keeps_inv _ hs
  · exact State.demConsumeAll_keeps_inv _ hs
  · exact State.demConsumeAll_keeps_inv _ hs
  · exact State.recvConsumeAll_keeps_inv _ hs
  · exact hs

theorem State.startDem_keeps_inv {s : State} (hs : Inv s) (hv : s.cfg.demValid = true) (op : DemOp)
    (hwindow : ∀ w, op = .classify w → w.length = s.cfg.sps) (n : Nat) : Inv (s.startDem op n) := by
  have haccepted := State.demComplete_keeps_inv hs hv op hwindow
  unfold State.startDem
  dsimp only
  split
  · exact State.demConsumeAll_keeps_inv n haccepted
  · exact haccepted

theorem State.startRecv_keeps_inv {s : State} (hs : Inv s) (hv : s.cfg.demValid = true) (n : Nat) : Inv (s.startRecv n) := by
  have haccepted := State.demComplete_keeps_inv hs hv (.recv n 0) nofun
  unfold State.startRecv
  dsimp only
  split
  · exact State.recvConsumeAll_keeps_inv _ haccepted
  · exact haccepted

/-! The frame decoder. -/

/-- The decoder invariants do not speak of the operation in progress. -/
theorem FdecInv.withOp {p : Params} {r : FdecRegs} (h : FdecInv p r) (op : Option FeedOp) : FdecInv p { r with op := op } :=
  ⟨h.noPreamble, h.shortBuf, h.emptyBuf, h.cleared, h.reading, h.waitingEnd, h.capped⟩

/-- Only FDEC, its events and answers changed. -/
theorem Inv.withFdec {s t : State} (hs : Inv s) (h : ReceiveOnly s t) (hdem : t.dem = s.dem) (hrx : t.rxBytes = s.rxBytes)
    (hfdec : FdecInv s.params t.fdec) (hfeed : feedPending t.fdec.op) : Inv t :=
  hs.withReceive h (hdem ▸ hs.dem) hfdec hfeed (hrx ▸ hs.rxBytes)

theorem State.feedConsume_keeps_inv {s : State} (hs : Inv s) : Inv s.feedConsume := by
  cases hop : s.fdec.op with
  | none => simpa [State.feedConsume, hop] using hs
  | some op =>
    obtain ⟨rest, out⟩ := op
    cases rest with
    | nil => simpa [State.feedConsume, hop] using hs
    | cons b rest =>
      have hbyte := feedByte_keeps_fdecInv hs.params.cap hs.fdec b
      have hframe := s.feedConsume_receiveOnly
      rw [State.feedConsume_eq hop] at hframe ⊢
      split
      · next hr => rw [if_pos hr] at hframe; exact hs.withFdec hframe rfl rfl (hbyte.withOp _) trivial
      · next hr => rw [if_neg hr] at hframe; exact hs.withFdec hframe rfl rfl (hbyte.withOp _) hr

theorem State.feedConsumeAll_keeps_inv (n : Nat) {s : State} (hs : Inv s) : Inv (s.feedConsumeAll n) := by
  induction n generalizing s with
  | zero => exact hs
  | succ n ih => exact ih (State.feedConsume_keeps_inv hs)

theorem State.feedFinish_keeps_inv {s : State} (hs : Inv s) : Inv s.feedFinish := by
  unfold State.feedFinish
  split
  · exact State.feedConsumeAll_keeps_inv _ hs
  · exact hs

theorem State.startFeed_keeps_inv {s : State} (hs : Inv s) (chunk : List Byte) : Inv (s.startFeed chunk) := by
  have haccepted : Inv ({ s with fdec := { s.fdec with op := some { rest := chunk, out := [] } } } : State).feedComplete := by
    cases chunk with
    | nil => exact hs.withFdec (s := s) rfl rfl rfl (hs.fdec.withOp none) trivial
    | cons b rest => exact hs.withFdec (s := s) rfl rfl rfl (hs.fdec.withOp _) (List.cons_ne_nil _ _)
  unfold State.startFeed
  dsimp only
  split
  · exact State.feedConsumeAll_keeps_inv _ haccepted
  · exact haccepted

/-! The operations. -/

theorem State.coreReset_keeps_inv {s : State} (hs : Inv s) : Inv s.coreReset where
  params := hs.params
  cfg := ⟨nofun, nofun⟩
  mod := ⟨fun _ => ⟨rfl, rfl, rfl, rfl, rfl⟩, nofun, nofun, nofun, nofun, nofun⟩
  dem := ⟨by simp [State.coreReset, DemRegs.coreReset, DemRegs.reset], by simp [State.coreReset, DemRegs.coreReset, DemRegs.reset], rfl,
    nofun, nofun, trivial, nofun⟩
  fdec := FdecInv.fresh
  feed := trivial
  rxBytes := rfl

theorem exec_cfgLoad_keeps_inv {s t : State} {c : ModConfig} (hs : Inv s) (h : exec (.cfgLoad c) s = .next t) : Inv t := by
  rw [exec_cfgLoad, execCfgLoad] at h
  split at h
  · cases h; exact State.respond_keeps_inv hs _ _
  next hbusy =>
  have hnot := mt (State.cfgBusy_iff s).2 hbusy
  have hmod : s.mod.active = false := by simpa using fun ha => hnot (.inl ha)
  have hdem : s.dem.op = none := by simpa using fun ha => hnot (.inr ha)
  obtain ⟨hup, hload⟩ | ⟨check, hfailed, hload⟩ := s.cfg.load_cases s.params.nMax (receiveConfig s.params.numFormat c) <;>
    rw [hload] at h <;> cases h
  · have hcfg : CfgInv s.params (s.cfg.loaded (receiveConfig s.params.numFormat c)) := cfgInv_loaded hup _
    have hinit := demInv_init hcfg.sps_pos_of_demValid s.dem
    rw [← hdem] at hinit
    exact ⟨hs.params, hcfg, hs.mod.of_idle hmod, hinit, hs.fdec, hs.feed, hs.rxBytes⟩
  · obtain ⟨-, hdemValid, -⟩ := s.cfg.writtenBefore_spec (receiveConfig s.params.numFormat c) check.number
    obtain ⟨hlen, hfit, -⟩ := s.dem.fit_spec (s.cfg.writtenBefore (receiveConfig s.params.numFormat c) check.number).sps
    refine ⟨hs.params, cfgInv_writtenBefore hfailed _, hs.mod.of_idle hmod, ?_, hs.fdec, hs.feed, hs.rxBytes⟩
    refine ⟨?_, ?_, hlen, fun hv => ?_, ?_, ?_, ?_⟩
    · show (s.dem.fit _).rxBitcnt < 8
      rw [hfit]; exact hs.dem.bitcnt
    · show (s.dem.fit _).rxShift.toNat < 2 ^ (s.dem.fit _).rxBitcnt
      rw [hfit]; exact hs.dem.shift
    · exact absurd (hdemValid.symm.trans hv) (by decide)
    · show (s.dem.fit _).op.isSome = true → _
      rw [hfit, hdem]; exact nofun
    · show demOpPending (s.dem.fit _).op
      rw [hfit, hdem]; trivial
    · show ∀ w, (s.dem.fit _).op = _ → _
      rw [hfit, hdem]; exact nofun

theorem exec_transmits_keeps_inv {i : Instr} {s t : State} (hi : transmits i = true) (hs : Inv s) (h : exec i s = .next t) : Inv t := by
  -- the two calls to transmit, the other operations of this side only answer
  by_cases hcall : isTransmit i
  · cases hv : s.cfg.cfgValid with
    | false =>
      rw [exec_transmit_of_unconfigured hcall hv] at h
      cases h
      exact State.refuseMod_keeps_inv hs _
    | true =>
      cases ha : s.mod.active with
      | true =>
        rw [exec_transmit_of_active hcall hv ha] at h
        cases h
        exact State.refuseMod_keeps_inv hs _
      | false =>
        rcases hcall with ⟨bytes, rfl⟩ | ⟨m, rfl⟩
        · rw [exec_modEncode, execModEncode_of_accepted hv ha] at h
          cases h
          exact State.startEncode_keeps_inv hs hv ha _
        · simp only [exec, execTxSend, hv, ha, Bool.not_true, Bool.false_eq_true, if_false] at h
          split at h
          · cases h; exact State.startEncode_keeps_inv hs hv ha _
          · cases h; exact State.respond_keeps_inv hs _ _
  · have hanswer : ∃ st v, t = s.respond st v := by
      cases i <;> simp only [transmits, Bool.false_eq_true] at hi
      case fencSer m => cases h; exact ⟨_, _, rfl⟩
      case fencWrap p => cases h; exact s.answerFrame_eq p
      case fencEncode m => cases h; exact s.answerFrame_eq _
      case modEncode bytes => exact absurd (.inl ⟨_, rfl⟩) hcall
      case txSend m => exact absurd (.inr ⟨_, rfl⟩) hcall
    obtain ⟨st, v, rfl⟩ := hanswer
    exact State.respond_keeps_inv hs _ _

/-- A refusal, or an accepted operation. -/
theorem keeps_inv_of_demValid {s t u : State} (hs : Inv s) {st : Status}
    (h : (Host.Outcome.next (if s.cfg.demValid then u else s.refuse st) : Host.Outcome State Fault Refusal) = .next t)
    (hu : s.cfg.demValid = true → Inv u) : Inv t := by
  cases hv : s.cfg.demValid with
  | true => rw [hv, if_pos rfl] at h; cases h; exact hu hv
  | false => rw [hv, if_neg Bool.false_ne_true] at h; cases h; exact State.respond_keeps_inv hs _ _

theorem exec_receives_keeps_inv {i : Instr} {s t : State} (hi : receives i = true) (hw : s.mustWait i = false) (hs : Inv s)
    (h : exec i s = .next t) : Inv t := by
  have hfree : s.demBusy = false → s.dem.op = none := fun hb => by
    by_contra hne
    simp [(State.demBusy_iff s).2 hne] at hb
  have hinit : s.dem.op = none → Inv { s with dem := s.dem.init s.cfg.sps } := fun hdem => by
    have := demInv_init hs.cfg.sps_pos_of_demValid s.dem
    rw [← hdem] at this
    exact hs.withDem this
  cases i <;> simp only [receives, Bool.false_eq_true] at hi <;> simp only [State.mustWait, opcodeOf, State.opMustWait] at hw
  case demInit =>
    rw [exec_demInit_of_free (hfree hw)] at h
    exact keeps_inv_of_demValid hs h fun _ => State.respond_keeps_inv (hinit (hfree hw)) _ _
  case detClassify w =>
    rw [exec_detClassify_of_free (hfree hw)] at h
    split at h
    · cases h; exact State.respond_keeps_inv hs _ _
    next hlen =>
    refine keeps_inv_of_demValid hs h fun hv => State.startDem_keeps_inv hs hv _ (fun w' hw' => ?_) _
    cases hw'
    exact not_not.1 fun hne => hlen ⟨(hs.cfg.demod hv).1, hne⟩
  case demDecode w =>
    rw [exec_demDecode_of_free (hfree hw)] at h
    exact keeps_inv_of_demValid hs h fun hv => State.startDem_keeps_inv (hinit (hfree hw)) hv (.decode w []) nofun _
  case demPush w =>
    rw [exec_demPush_of_free (hfree hw)] at h
    exact keeps_inv_of_demValid hs h fun hv => State.startDem_keeps_inv hs hv (.push w []) nofun _
  case fdecInit =>
    simp only [exec, execFdecInit, hw, Bool.false_eq_true, if_false] at h
    cases h
    exact hs.withFdec (s := s) rfl rfl rfl FdecInv.fresh trivial
  case fdecFeed chunk =>
    simp only [exec, execFdecFeed, hw, Bool.false_eq_true, if_false] at h
    cases h
    exact State.startFeed_keeps_inv hs chunk
  case fdecDeser text =>
    simp only [exec, execFdecDeser, hw, Bool.false_eq_true, if_false] at h
    split at h <;> cases h <;> exact State.respond_keeps_inv hs _ _
  case rxRecv n =>
    obtain ⟨hdem, -⟩ := Bool.or_eq_false_iff.1 hw
    simp only [exec, execRxRecv, hw, Bool.false_eq_true, if_false] at h
    cases hv : s.cfg.demValid with
    | false => rw [hv] at h; cases h; exact State.respond_keeps_inv hs _ _
    | true => rw [hv] at h; cases h; exact State.startRecv_keeps_inv hs hv n

/-- Every operation keeps a sound state sound. -/
theorem exec_keeps_inv {i : Instr} {s t : State} (hs : Inv s) (h : exec i s = .next t) : Inv t := by
  by_cases hreset : i = .coreReset
  · subst hreset; cases h; exact State.respond_keeps_inv (State.coreReset_keeps_inv hs) _ _
  by_cases hload : ∃ c, i = .cfgLoad c
  · obtain ⟨c, rfl⟩ := hload
    exact exec_cfgLoad_keeps_inv hs h
  cases hw : s.mustWait i with
  | true =>
    rw [exec_of_mustWait hw] at h
    cases h
    exact State.requeue_keeps_inv hs i
  | false =>
    cases ht : transmits i with
    | true => exact exec_transmits_keeps_inv ht hs h
    | false =>
      cases hr : receives i with
      | true => exact exec_receives_keeps_inv hr hw hs h
      | false => exact (exec_answerOnly ht hr (fun c hi => hload ⟨c, hi⟩) hreset h).keeps_inv hs

/-! The step. -/

theorem State.refuseDecode_keeps_inv {s : State} (hs : Inv s) (e : DecodeError) : Inv (s.refuseDecode e) := by
  cases e with
  | illegalOp code => exact State.respond_keeps_inv hs _ _
  | badOperand op =>
    simp only [State.refuseDecode, State.refuseFor]
    split
    · exact State.refuseMod_keeps_inv hs _
    · exact State.respond_keeps_inv hs _ _

theorem State.serve_keeps_inv {s t : State} {r : Request} (hs : Inv s) (h : s.serve r = .next t) : Inv t := by
  obtain ⟨i, -, h⟩ | ⟨e, -, rfl⟩ := State.serve_cases h
  · exact exec_keeps_inv hs h
  · exact State.refuseDecode_keeps_inv hs e

/-- The invariant does not speak of `cmd_in`. -/
theorem Inv.withCmdIn {s : State} (hs : Inv s) (q : List Request) : Inv { s with cmdIn := q } := hs.congr rfl rfl rfl rfl rfl rfl

theorem State.serveNext_keeps_inv {s t : State} (hs : Inv s) (h : s.serveNext = some (.next t)) : Inv t := by
  unfold State.serveNext at h
  split at h
  · contradiction
  · split at h
    · exact State.serve_keeps_inv (hs.withCmdIn _) (Option.some.inj h)
    · obtain ⟨q, -, h⟩ := Option.map_eq_some_iff.1 h
      exact State.serve_keeps_inv (hs.withCmdIn _) h

theorem State.getD_serveNext_keeps_inv {s t u : State} (hs : Inv s) (hu : Inv u) (h : s.serveNext.getD (.next u) = .next t) : Inv t := by
  cases hn : s.serveNext with
  | none => rw [hn] at h; cases h; exact hu
  | some o =>
    rw [hn, Option.getD_some] at h
    exact State.serveNext_keeps_inv hs (by rw [hn, h])

theorem State.turn_keeps_inv {s t : State} {u : Turn} (hs : Inv s) (h : s.turn u = .next t) : Inv t := by
  cases u with
  | serve => exact State.getD_serveNext_keeps_inv hs hs h
  | mod => cases h; exact State.modStep_keeps_inv hs
  | dem => cases h; exact State.demStep_keeps_inv hs
  | fdec => cases h; exact State.feedConsume_keeps_inv hs
  | request r => cases h; exact hs.withCmdIn _
  | sample x => cases h; exact hs.congr rfl rfl rfl rfl rfl rfl
  | time v => cases h; exact hs.congr rfl rfl rfl rfl rfl rfl

theorem State.finishAll_keeps_inv {s : State} (hs : Inv s) : Inv s.finishAll :=
  State.feedFinish_keeps_inv (State.demFinish_keeps_inv (State.modFinish_keeps_inv hs))

end Sys2Proof.Machine

namespace Sys2Proof.Proofs
open Sys2Proof.Machine

/-- Settles O10: a turn, a served request, or everything in progress going on; each unit keeps its own invariant. -/
theorem stepKeepsInvariant : Obligations.StepKeepsInvariant := by
  unfold Obligations.StepKeepsInvariant
  intro s t hs h
  unfold step at h
  split at h
  · next u ts _ => exact State.turn_keeps_inv (s := { s with sched := ts }) (hs.congr rfl rfl rfl rfl rfl rfl) h
  · exact State.getD_serveNext_keeps_inv hs (State.finishAll_keeps_inv hs) h

end Sys2Proof.Proofs
end

-- ==== Proofs: 41_modulator.md, the enclosure of the sine ====
section
/-!
SUPPORT. Proof of the statement on the enclosure of the sine (log 12). Seen as angles, a halving halves the distance between the two
ends; the rounding of the square roots moves each end outwards by an angle of at most `roundingAngle`.
-/

-- One declaration after another: fewer threads, and so less memory, at a time.
set_option Elab.async false

namespace Sys2Proof.Machine

/-! Square roots of natural numbers. -/

theorem isqrt_spec (b n : Nat) (h : n < 4 ^ b) : isqrt b n ^ 2 ≤ n ∧ n < (isqrt b n + 1) ^ 2 := by
  induction b generalizing n with
  | zero =>
    obtain rfl : n = 0 := by simpa using h
    simp [isqrt]
  | succ b ih =>
    obtain ⟨hle, hlt⟩ := ih (n / 4) (by rw [pow_succ] at h; omega)
    simp only [isqrt]
    generalize isqrt b (n / 4) = r at *
    have hle' : (2 * r) ^ 2 ≤ n := by rw [mul_pow]; omega
    have hlt' : n < (2 * r + 1 + 1) ^ 2 := by
      rw [show (2 * r + 1 + 1) ^ 2 = 4 * (r + 1) ^ 2 by ring]
      omega
    split
    · next hstep => exact ⟨by rw [pow_two]; exact hstep, hlt'⟩
    · next hstep => exact ⟨hle', by rw [pow_two]; exact not_le.1 hstep⟩

theorem isqrtUp_spec (b n : Nat) (h : n < 4 ^ b) : n ≤ isqrtUp b n ^ 2 ∧ isqrtUp b n ≤ isqrt b n + 1 := by
  obtain ⟨-, hlt⟩ := isqrt_spec b n h
  unfold isqrtUp
  split
  · next heq => exact ⟨by rw [pow_two, heq], by omega⟩
  · exact ⟨hlt.le, le_rfl⟩

theorem isqrtUp_le {b n m : Nat} (h : n < 4 ^ b) (hm : n ≤ m ^ 2) : isqrtUp b n ≤ m := by
  obtain ⟨hle, -⟩ := isqrt_spec b n h
  unfold isqrtUp
  split
  · exact (Nat.pow_le_pow_iff_left two_ne_zero).1 (hle.trans hm)
  · next hne =>
    have hlt : isqrt b n ^ 2 < n := lt_of_le_of_ne hle (by rwa [pow_two])
    exact (Nat.pow_lt_pow_iff_left two_ne_zero).1 (hlt.trans_le hm)

/-! Angles. -/

/-- Between two numbers that differ by at most `2 d ^ 2` the angle differs by at most `pi d`. -/
theorem arccos_sub_arccos_le {x y d : ℝ} (hd : 0 ≤ d) (hy : -1 ≤ y) (hyx : y ≤ x) (hx : x ≤ 1) (hxy : x - y ≤ 2 * d ^ 2) :
    Real.arccos y - Real.arccos x ≤ Real.pi * d := by
  have hcosx : Real.cos (Real.arccos x) = x := Real.cos_arccos (by linarith) hx
  have hcosy : Real.cos (Real.arccos y) = y := Real.cos_arccos hy (by linarith)
  have horder : Real.arccos x ≤ Real.arccos y := Real.arccos_le_arccos hyx
  have hx0 := Real.arccos_nonneg x
  have hypi := Real.arccos_le_pi y
  generalize Real.arccos x = t at *
  generalize Real.arccos y = s at *
  have hpi := Real.pi_pos
  -- half the difference, and the mean, which is at least as far from 0 and from pi
  have hhalf : 2 / Real.pi * ((s - t) / 2) ≤ Real.sin ((s - t) / 2) := Real.mul_le_sin (by linarith) (by linarith)
  have hmean : Real.sin ((s - t) / 2) ≤ Real.sin ((s + t) / 2) := by
    rcases le_total ((s + t) / 2) (Real.pi / 2) with h | h
    · exact Real.sin_le_sin_of_le_of_le_pi_div_two (by linarith) h (by linarith)
    · rw [← Real.sin_pi_sub ((s + t) / 2)]
      exact Real.sin_le_sin_of_le_of_le_pi_div_two (by linarith) (by linarith) (by linarith)
  have hprod : x - y = 2 * Real.sin ((s + t) / 2) * Real.sin ((s - t) / 2) := by
    rw [← hcosx, ← hcosy, Real.cos_sub_cos, show (t - s) / 2 = -((s - t) / 2) by ring, Real.sin_neg, add_comm t s]
    ring
  have hsin : Real.sin ((s - t) / 2) ≤ d := by
    have hnonneg : 0 ≤ Real.sin ((s - t) / 2) := le_trans (mul_nonneg (by positivity) (by linarith)) hhalf
    nlinarith
  have hfinal : 2 / Real.pi * ((s - t) / 2) ≤ d := hhalf.trans hsin
  rw [show 2 / Real.pi * ((s - t) / 2) = (s - t) / Real.pi by field_simp, div_le_iff₀ hpi] at hfinal
  linarith

/-- The cosine of half the angle whose cosine is `x`. -/
theorem arccos_sqrt_half {x : ℝ} (hl : -1 ≤ x) (hu : x ≤ 1) : Real.arccos (Real.sqrt ((1 + x) / 2)) = Real.arccos x / 2 := by
  have h0 := Real.arccos_nonneg x
  have hpi := Real.arccos_le_pi x
  have hhalf := Real.cos_half (x := Real.arccos x) (by linarith [Real.pi_pos]) hpi
  rw [Real.cos_arccos hl hu] at hhalf
  rw [← hhalf, Real.arccos_cos (by linarith) (by linarith [Real.pi_pos])]

/-! An enclosure, as angles. -/

/-- The real number that `z` stands for in units of `2 ^ -p`. -/
noncomputable def unitValue (p : Nat) (z : Int) : ℝ := (z : ℝ) / 2 ^ p

/-- `e` encloses the cosine of `x`, and its ends are at most `w` apart as angles. -/
structure Encloses (p : Nat) (e : Int × Int) (x w : ℝ) : Prop where
  low : -1 ≤ unitValue p e.1
  lower : unitValue p e.1 ≤ Real.cos x
  upper : Real.cos x ≤ unitValue p e.2
  high : unitValue p e.2 ≤ 1
  width : Real.arccos (unitValue p e.1) - Real.arccos (unitValue p e.2) ≤ w

theorem unitValue_neg (p : Nat) (z : Int) : unitValue p (-z) = -unitValue p z := by
  simp [unitValue, neg_div]

theorem unitValue_natCast (p n : Nat) : unitValue p (n : Int) = n / 2 ^ p := by
  simp [unitValue]

/-- The whole interval encloses every cosine. -/
theorem encloses_whole (p : Nat) (x : ℝ) : Encloses p (-(2 ^ p : Int), (2 ^ p : Int)) x Real.pi := by
  have hone : unitValue p (2 ^ p : Int) = 1 := by simp [unitValue]
  have hneg : unitValue p (-(2 ^ p : Int)) = -1 := by rw [unitValue_neg, hone]
  exact ⟨hneg.ge, hneg ▸ Real.neg_one_le_cos x, hone ▸ Real.cos_le_one x, hone.le, by simp [hone, hneg]⟩

theorem Encloses.neg {p : Nat} {a b : Int} {x y w : ℝ} (h : Encloses p (a, b) x w) (hxy : Real.cos y = -Real.cos x) :
    Encloses p (-b, -a) y w := by
  obtain ⟨hlow, hlower, hupper, hhigh, hwidth⟩ := h
  refine ⟨?_, ?_, ?_, ?_, ?_⟩ <;> simp only [unitValue_neg, Real.arccos_neg, hxy] at * <;> linarith

/-- The number under the square root of a halving. -/
def halvingRadicand (p : Nat) (z : Int) : Nat := (2 ^ p + z).toNat * 2 ^ (p - 1)

theorem halvingRadicand_cast {p : Nat} (hp : 1 ≤ p) {z : Int} (hz : -1 ≤ unitValue p z) :
    (halvingRadicand p z : ℝ) = (2 ^ p) ^ 2 * ((1 + unitValue p z) / 2) := by
  have hpow : (0 : ℝ) < 2 ^ p := by positivity
  have hz' : 0 ≤ 2 ^ p + z := by
    rw [unitValue, le_div_iff₀ hpow] at hz
    have : (0 : ℝ) ≤ ((2 ^ p + z : Int) : ℝ) := by push_cast; linarith
    exact_mod_cast this
  have hcast : (((2 ^ p + z).toNat : Nat) : ℝ) = 2 ^ p + (z : ℝ) := by
    have : (((2 ^ p + z).toNat : Int) : ℝ) = ((2 ^ p + z : Int) : ℝ) := by rw [Int.toNat_of_nonneg hz']
    push_cast at this
    exact this
  obtain ⟨q, rfl⟩ : ∃ q, p = q + 1 := ⟨p - 1, by omega⟩
  rw [halvingRadicand, Nat.cast_mul, hcast, unitValue]
  push_cast [Nat.add_sub_cancel]
  field_simp
  ring

theorem halvingRadicand_le {p : Nat} (hp : 1 ≤ p) {z : Int} (hz : -1 ≤ unitValue p z) (hz' : unitValue p z ≤ 1) :
    halvingRadicand p z ≤ (2 ^ p) ^ 2 := by
  have : (halvingRadicand p z : ℝ) ≤ (2 ^ p) ^ 2 := by
    rw [halvingRadicand_cast hp hz]
    exact mul_le_of_le_one_right (by positivity) (by linarith)
  exact_mod_cast this

theorem halvingRadicand_lt {p : Nat} (hp : 1 ≤ p) {z : Int} (hz : -1 ≤ unitValue p z) (hz' : unitValue p z ≤ 1) :
    halvingRadicand p z < 4 ^ (p + 1) := by
  refine (halvingRadicand_le hp hz hz').trans_lt ?_
  rw [← pow_mul, Nat.mul_comm, pow_mul, show (2 : Nat) ^ 2 = 4 from rfl]
  exact Nat.pow_lt_pow_right (by norm_num) (by omega)

/-- The square root of the radicand in units of `2 ^ -p` is the cosine of the halved angle. -/
theorem sqrt_halvingRadicand {p : Nat} (hp : 1 ≤ p) {z : Int} (hz : -1 ≤ unitValue p z) :
    Real.sqrt (halvingRadicand p z) = 2 ^ p * Real.sqrt ((1 + unitValue p z) / 2) := by
  rw [halvingRadicand_cast hp hz, Real.sqrt_mul (by positivity), Real.sqrt_sq (by positivity)]

/-- The rounded-down root of a halving is below the root by at most one unit. -/
theorem lowerRoot_spec {p : Nat} (hp : 1 ≤ p) {z : Int} (hz : -1 ≤ unitValue p z) (hz' : unitValue p z ≤ 1) :
    0 ≤ unitValue p (isqrt (p + 1) (halvingRadicand p z)) ∧
    unitValue p (isqrt (p + 1) (halvingRadicand p z)) ≤ Real.sqrt ((1 + unitValue p z) / 2) ∧
    Real.sqrt ((1 + unitValue p z) / 2) ≤ unitValue p (isqrt (p + 1) (halvingRadicand p z)) + 1 / 2 ^ p := by
  have hpow : (0 : ℝ) < 2 ^ p := by positivity
  have hroot := sqrt_halvingRadicand hp hz
  obtain ⟨hle, hlt⟩ := isqrt_spec _ _ (halvingRadicand_lt hp hz hz')
  generalize isqrt (p + 1) (halvingRadicand p z) = a at *
  have hle' : (a : ℝ) ≤ Real.sqrt (halvingRadicand p z) := Real.le_sqrt_of_sq_le (by exact_mod_cast hle)
  have hlt' : Real.sqrt (halvingRadicand p z) ≤ a + 1 := Real.sqrt_le_iff.2 ⟨by positivity, by exact_mod_cast hlt.le⟩
  rw [hroot] at hle' hlt'
  refine ⟨by unfold unitValue; positivity, ?_, ?_⟩
  · rw [unitValue_natCast, div_le_iff₀ hpow, mul_comm]
    exact hle'
  · rw [unitValue_natCast, ← add_div, le_div_iff₀ hpow, mul_comm]
    exact hlt'

/-- The rounded-up root of a halving is above the root by at most one unit, and not above 1. -/
theorem upperRoot_spec {p : Nat} (hp : 1 ≤ p) {z : Int} (hz : -1 ≤ unitValue p z) (hz' : unitValue p z ≤ 1) :
    unitValue p (isqrtUp (p + 1) (halvingRadicand p z)) ≤ 1 ∧
    Real.sqrt ((1 + unitValue p z) / 2) ≤ unitValue p (isqrtUp (p + 1) (halvingRadicand p z)) ∧
    unitValue p (isqrtUp (p + 1) (halvingRadicand p z)) ≤ Real.sqrt ((1 + unitValue p z) / 2) + 1 / 2 ^ p := by
  have hpow : (0 : ℝ) < 2 ^ p := by positivity
  have hroot := sqrt_halvingRadicand hp hz
  have hbound := halvingRadicand_lt hp hz hz'
  obtain ⟨-, hbelow, -⟩ := lowerRoot_spec hp hz hz'
  obtain ⟨hle, hnear⟩ := isqrtUp_spec _ _ hbound
  have hone := isqrtUp_le hbound (halvingRadicand_le hp hz hz')
  generalize isqrtUp (p + 1) (halvingRadicand p z) = b at *
  refine ⟨?_, ?_, ?_⟩
  · rw [unitValue_natCast, div_le_one hpow]
    exact_mod_cast hone
  · have : Real.sqrt (halvingRadicand p z) ≤ b := Real.sqrt_le_iff.2 ⟨by positivity, by exact_mod_cast hle⟩
    rw [hroot] at this
    rw [unitValue_natCast, le_div_iff₀ hpow, mul_comm]
    exact this
  · have hcast : (b : ℝ) ≤ (isqrt (p + 1) (halvingRadicand p z) : ℝ) + 1 := by exact_mod_cast hnear
    have : unitValue p b ≤ unitValue p (isqrt (p + 1) (halvingRadicand p z)) + 1 / 2 ^ p := by
      rw [unitValue_natCast, unitValue_natCast, ← add_div]
      exact div_le_div_of_nonneg_right hcast hpow.le
    linarith

/-- Rounding by a unit of `2 ^ -(2 k + 8)` moves an angle by at most this. -/
noncomputable def roundingAngle (k : Nat) : ℝ := Real.pi * (3 / 64 / 2 ^ k)

theorem unit_le (k : Nat) : (1 : ℝ) / 2 ^ (2 * k + 8) ≤ 2 * (3 / 64 / 2 ^ k) ^ 2 := by
  rw [show (2 : ℝ) ^ (2 * k + 8) = (2 ^ k) ^ 2 * 256 by rw [pow_add, pow_mul']; norm_num]
  rw [div_pow, show (2 : ℝ) * ((3 / 64) ^ 2 / (2 ^ k) ^ 2) = (2 * (3 / 64) ^ 2) / (2 ^ k) ^ 2 by ring, ← div_div,
    div_le_div_iff₀ (by norm_num) (by positivity)]
  have : (0 : ℝ) < (2 ^ k) ^ 2 := by positivity
  rw [div_mul_cancel₀ _ this.ne']
  norm_num

/-- One halving: the ends come twice as near, but for the rounding. -/
theorem Encloses.half {k : Nat} {e : Int × Int} {x w : ℝ} (h : Encloses (2 * k + 8) e (2 * x) w) (hx : 0 ≤ Real.cos x) :
    Encloses (2 * k + 8)
      ((isqrt (2 * k + 8 + 1) (halvingRadicand (2 * k + 8) e.1) : Int), (isqrtUp (2 * k + 8 + 1) (halvingRadicand (2 * k + 8) e.2) : Int))
      x (w / 2 + 2 * roundingAngle k) := by
  have hunit := unit_le k
  generalize hp : 2 * k + 8 = p at *
  have hp1 : 1 ≤ p := by omega
  obtain ⟨hlow, hlower, hupper, hhigh, hwidth⟩ := h
  obtain ⟨ha0, hale, hanear⟩ := lowerRoot_spec hp1 hlow (by linarith)
  obtain ⟨hb1, hble, hbnear⟩ := upperRoot_spec hp1 (z := e.2) (by linarith) hhigh
  have hcos : Real.cos x = Real.sqrt ((1 + Real.cos (2 * x)) / 2) := by
    rw [show (1 + Real.cos (2 * x)) / 2 = Real.cos x ^ 2 by rw [Real.cos_sq]; ring, Real.sqrt_sq hx]
  have hA : Real.sqrt ((1 + unitValue p e.1) / 2) ≤ Real.cos x := by rw [hcos]; exact Real.sqrt_le_sqrt (by linarith)
  have hB : Real.cos x ≤ Real.sqrt ((1 + unitValue p e.2) / 2) := by rw [hcos]; exact Real.sqrt_le_sqrt (by linarith)
  have hroot1 := arccos_sqrt_half hlow (by linarith)
  have hroot2 := arccos_sqrt_half (x := unitValue p e.2) (by linarith) hhigh
  have hcos1 := Real.cos_le_one x
  have hB0 := Real.sqrt_nonneg ((1 + unitValue p e.2) / 2)
  refine ⟨by dsimp only; linarith, hale.trans hA, hB.trans hble, hb1, ?_⟩
  have hleft := arccos_sub_arccos_le (d := 3 / 64 / 2 ^ k) (by positivity) (by linarith) hale (by linarith) (by linarith)
  have hright := arccos_sub_arccos_le (d := 3 / 64 / 2 ^ k) (by positivity) (by linarith) hble hb1 (by linarith)
  rw [hroot1] at hleft
  rw [hroot2] at hright
  unfold roundingAngle
  dsimp only
  linarith

/-! The recursion. -/

theorem cos_foldAngle {n d : Nat} (hd : 0 < d) (hn : n ≤ d) :
    Real.cos (Real.pi * (foldAngle n d : ℝ) / d) = Real.cos (2 * (Real.pi * n / d)) := by
  have hd' : (d : ℝ) ≠ 0 := by positivity
  unfold foldAngle
  split
  · congr 1; push_cast; ring
  · rw [Nat.cast_sub (by omega), ← Real.cos_two_pi_sub (2 * (Real.pi * n / d))]
    congr 1
    push_cast
    field_simp

theorem foldAngle_le {n d : Nat} (hn : n ≤ d) : foldAngle n d ≤ d := by
  unfold foldAngle
  split <;> omega

/-- The enclosure of a cosine after `j` halvings (log 12). -/
theorem cosEnclosure_encloses (k j n d : Nat) (hd : 0 < d) (hn : n ≤ d) :
    Encloses (2 * k + 8) (cosEnclosure (2 * k + 8) j n d) (Real.pi * n / d) (Real.pi / 2 ^ j + 4 * roundingAngle k) := by
  have hround : 0 ≤ roundingAngle k := mul_nonneg Real.pi_pos.le (by positivity)
  have hd' : (0 : ℝ) < d := by exact_mod_cast hd
  have hpi := Real.pi_pos
  induction j generalizing n with
  | zero =>
    obtain ⟨h1, h2, h3, h4, h5⟩ := encloses_whole (2 * k + 8) (Real.pi * n / d)
    exact ⟨h1, h2, h3, h4, h5.trans (by rw [pow_zero, div_one]; linarith)⟩
  | succ j ih =>
    have hdoubled := ih (foldAngle n d) (foldAngle_le hn)
    have hcos := cos_foldAngle hd hn
    have hwidth : (Real.pi / 2 ^ j + 4 * roundingAngle k) / 2 + 2 * roundingAngle k = Real.pi / 2 ^ (j + 1) + 4 * roundingAngle k := by
      rw [pow_succ]; field_simp; ring
    simp only [cosEnclosure]
    generalize cosEnclosure (2 * k + 8) j (foldAngle n d) d = e at *
    have hangle : Real.pi * n / d ≤ Real.pi := by
      rw [div_le_iff₀ hd']
      exact mul_le_mul_of_nonneg_left (by exact_mod_cast hn) hpi.le
    have hangle0 : 0 ≤ Real.pi * n / d := by positivity
    split
    · next hle =>
      have hx : 0 ≤ Real.cos (Real.pi * n / d) := by
        refine Real.cos_nonneg_of_neg_pi_div_two_le_of_le (by linarith) ?_
        have : (2 * n : ℝ) ≤ d := by exact_mod_cast hle
        rw [div_le_div_iff₀ hd' (by norm_num)]
        nlinarith
      have h2 : Encloses (2 * k + 8) e (2 * (Real.pi * n / d)) (Real.pi / 2 ^ j + 4 * roundingAngle k) :=
        ⟨hdoubled.low, hcos ▸ hdoubled.lower, hcos ▸ hdoubled.upper, hdoubled.high, hdoubled.width⟩
      exact hwidth ▸ h2.half hx
    · next hlt =>
      -- the other half: the same enclosure of the angle that completes it to pi, with the sign changed
      have hcos' : Real.cos (Real.pi * (foldAngle n d : ℝ) / d) = Real.cos (2 * (Real.pi - Real.pi * n / d)) := by
        rw [hcos, mul_sub, Real.cos_two_pi_sub]
      have hx : 0 ≤ Real.cos (Real.pi - Real.pi * n / d) := by
        refine Real.cos_nonneg_of_neg_pi_div_two_le_of_le (by linarith) ?_
        have hge : (d : ℝ) ≤ 2 * n := by exact_mod_cast (not_le.1 hlt).le
        have : Real.pi / 2 ≤ Real.pi * n / d := by
          rw [div_le_div_iff₀ (by norm_num) hd']
          nlinarith
        linarith
      have h2 : Encloses (2 * k + 8) e (2 * (Real.pi - Real.pi * n / d)) (Real.pi / 2 ^ j + 4 * roundingAngle k) :=
        ⟨hdoubled.low, hcos' ▸ hdoubled.lower, hcos' ▸ hdoubled.upper, hdoubled.high, hdoubled.width⟩
      refine (hwidth ▸ h2.half hx).neg ?_
      rw [Real.cos_pi_sub, neg_neg]

/-- As numbers the ends of an enclosure are no farther apart than as angles. -/
theorem Encloses.width_le {p : Nat} {e : Int × Int} {x w : ℝ} (h : Encloses p e x w) : unitValue p e.2 - unitValue p e.1 ≤ w := by
  obtain ⟨hlow, hlower, hupper, hhigh, hwidth⟩ := h
  have horder : Real.arccos (unitValue p e.2) ≤ Real.arccos (unitValue p e.1) := Real.arccos_le_arccos (hlower.trans hupper)
  have hlip := Real.abs_cos_sub_cos_le (Real.arccos (unitValue p e.2)) (Real.arccos (unitValue p e.1))
  rw [Real.cos_arccos (by linarith) hhigh, Real.cos_arccos hlow (by linarith), abs_sub_comm (Real.arccos _),
    abs_of_nonneg (sub_nonneg.2 horder)] at hlip
  exact (le_abs_self _).trans (hlip.trans hwidth)

/-! The sine of a number of turns. -/

theorem fracTurn_eq_fract (r : Rat) : fracTurn r = Int.fract r := rfl

/-- Whole turns do not matter. -/
theorem sin_fracTurn (r : Rat) : Real.sin (2 * Real.pi * (fracTurn r : ℝ)) = Real.sin (2 * Real.pi * (r : ℝ)) := by
  have hfloor : (fracTurn r : ℝ) = r - (⌊r⌋ : Int) := by
    rw [fracTurn_eq_fract, Int.fract]; push_cast; rfl
  rw [hfloor, show 2 * Real.pi * ((r : ℝ) - (⌊r⌋ : Int)) = 2 * Real.pi * r - (⌊r⌋ : Int) * (2 * Real.pi) by ring,
    Real.sin_sub_int_mul_two_pi]

theorem cos_fracTurn (r : Rat) : Real.cos (2 * Real.pi * (fracTurn r : ℝ)) = Real.cos (2 * Real.pi * (r : ℝ)) := by
  have hfloor : (fracTurn r : ℝ) = r - (⌊r⌋ : Int) := by
    rw [fracTurn_eq_fract, Int.fract]; push_cast; rfl
  rw [hfloor, show 2 * Real.pi * ((r : ℝ) - (⌊r⌋ : Int)) = 2 * Real.pi * r - (⌊r⌋ : Int) * (2 * Real.pi) by ring,
    Real.cos_sub_int_mul_two_pi]

theorem sin_twelfth_turn : Real.sin (2 * Real.pi * (1 / 12)) = 1 / 2 := by
  rw [show 2 * Real.pi * (1 / 12) = Real.pi / 6 by ring, Real.sin_pi_div_six]

/-- Where the sine is said to be rational it has that value. -/
theorem sin_of_exactSin {r v : Rat} (h : exactSin r = some v) : Real.sin (2 * Real.pi * (r : ℝ)) = v := by
  rw [← sin_fracTurn]
  simp only [exactSin] at h
  generalize fracTurn r = f at *
  split at h
  · next hf =>
    cases h
    rcases hf with rfl | rfl
    · simp
    · rw [show 2 * Real.pi * ((1 / 2 : Rat) : ℝ) = Real.pi by push_cast; ring]; simp
  split at h
  · next hf =>
    cases h
    rcases hf with rfl | rfl
    · push_cast; exact sin_twelfth_turn
    · rw [show 2 * Real.pi * ((5 / 12 : Rat) : ℝ) = Real.pi - 2 * Real.pi * (1 / 12) by push_cast; ring, Real.sin_pi_sub,
        sin_twelfth_turn]
      norm_num
  split at h
  · next hf =>
    cases h
    rcases hf with rfl | rfl
    · rw [show 2 * Real.pi * ((7 / 12 : Rat) : ℝ) = 2 * Real.pi * (1 / 12) + Real.pi by push_cast; ring, Real.sin_add_pi,
        sin_twelfth_turn]
      norm_num
    · rw [show 2 * Real.pi * ((11 / 12 : Rat) : ℝ) = 2 * Real.pi - 2 * Real.pi * (1 / 12) by push_cast; ring,
        Real.sin_two_pi_sub, sin_twelfth_turn]
      norm_num
  split at h
  · next hf =>
    cases h
    subst hf
    rw [show 2 * Real.pi * ((1 / 4 : Rat) : ℝ) = Real.pi / 2 by push_cast; ring]; simp
  split at h
  · next hf =>
    cases h
    subst hf
    rw [show 2 * Real.pi * ((3 / 4 : Rat) : ℝ) = Real.pi / 2 + Real.pi by push_cast; ring, Real.sin_add_pi]; simp
  · contradiction

theorem halfTurns_mem (r : Rat) : 0 ≤ halfTurns r ∧ halfTurns r ≤ 1 := by
  have h0 : 0 ≤ fracTurn (r - 1 / 4) := Int.fract_nonneg (r - 1 / 4)
  have h1 : fracTurn (r - 1 / 4) < 1 := Int.fract_lt_one (r - 1 / 4)
  simp only [halfTurns]
  split
  · exact ⟨by linarith, by assumption⟩
  · exact ⟨by linarith, by linarith⟩

/-- The sine of `r` turns as the cosine of a number of half turns. -/
theorem cos_halfTurns (r : Rat) : Real.cos (Real.pi * (halfTurns r : ℝ)) = Real.sin (2 * Real.pi * (r : ℝ)) := by
  have hv : Real.cos (Real.pi * (2 * fracTurn (r - 1 / 4) : Rat)) = Real.sin (2 * Real.pi * (r : ℝ)) := by
    rw [show Real.pi * ((2 * fracTurn (r - 1 / 4) : Rat) : ℝ) = 2 * Real.pi * (fracTurn (r - 1 / 4) : ℝ) by push_cast; ring,
      cos_fracTurn, ← Real.cos_sub_pi_div_two]
    congr 1
    push_cast
    ring
  simp only [halfTurns]
  split
  · exact hv
  · rw [← hv, ← Real.cos_two_pi_sub]
    congr 1
    push_cast
    ring

theorem sinEnclosure_of_exact {r v : Rat} (h : exactSin r = some v) (k : Nat) : sinEnclosure k r = (v, v) := by
  simp [sinEnclosure, h]

/-- Where the sine is not known exactly, the enclosure is that of a cosine. -/
theorem sinEnclosure_of_inexact {r : Rat} (h : exactSin r = none) (k : Nat) :
    ∃ e : Int × Int, Encloses (2 * k + 8) e (Real.pi * (halfTurns r : ℝ)) (Real.pi / 2 ^ k + 4 * roundingAngle k) ∧
      ((sinEnclosure k r).1 : ℝ) = unitValue (2 * k + 8) e.1 ∧ ((sinEnclosure k r).2 : ℝ) = unitValue (2 * k + 8) e.2 := by
  obtain ⟨h0, h1⟩ := halfTurns_mem r
  have hnum : ((halfTurns r).num.toNat : Int) = (halfTurns r).num := Int.toNat_of_nonneg (Rat.num_nonneg.2 h0)
  have hle : (halfTurns r).num.toNat ≤ (halfTurns r).den := by
    have : (halfTurns r).num ≤ (halfTurns r).den := by rwa [Rat.le_iff, Rat.num_ofNat, Rat.den_ofNat, Nat.cast_one, mul_one, one_mul] at h1
    omega
  have hangle : Real.pi * ((halfTurns r).num.toNat : ℝ) / (halfTurns r).den = Real.pi * (halfTurns r : ℝ) := by
    have hcast : ((halfTurns r).num.toNat : ℝ) = ((halfTurns r).num : ℝ) := by exact_mod_cast congrArg (Int.cast (R := ℝ)) hnum
    rw [hcast, mul_div_assoc, ← Rat.cast_def]
  have he := cosEnclosure_encloses k k _ _ (halfTurns r).den_pos hle
  rw [hangle] at he
  refine ⟨_, he, ?_, ?_⟩
  · simp [sinEnclosure, h, unitValue]
  · simp [sinEnclosure, h, unitValue]

/-- What the machine decides sample questions with (log 12). -/
theorem sinEnclosure_spec (k : Nat) (r : Rat) :
    ((sinEnclosure k r).1 : ℝ) ≤ Real.sin (2 * Real.pi * (r : ℝ)) ∧ Real.sin (2 * Real.pi * (r : ℝ)) ≤ ((sinEnclosure k r).2 : ℝ) ∧
      ((sinEnclosure k r).2 : ℝ) - ((sinEnclosure k r).1 : ℝ) ≤ 4 / 2 ^ k := by
  cases hexact : exactSin r with
  | some v =>
    rw [sinEnclosure_of_exact hexact, sin_of_exactSin hexact]
    exact ⟨le_rfl, le_rfl, by rw [sub_self]; positivity⟩
  | none =>
    obtain ⟨e, he, h1, h2⟩ := sinEnclosure_of_inexact hexact k
    rw [h1, h2, ← cos_halfTurns]
    refine ⟨he.lower, he.upper, he.width_le.trans ?_⟩
    have hpi := Real.pi_lt_d2
    rw [roundingAngle, show Real.pi / 2 ^ k + 4 * (Real.pi * (3 / 64 / 2 ^ k)) = (Real.pi * (19 / 16)) / 2 ^ k by ring]
    exact div_le_div_of_nonneg_right (by linarith) (by positivity)

end Sys2Proof.Machine

namespace Sys2Proof.Proofs
open Sys2Proof.Machine

/-- Settles O38: the enclosure as angles, halved `k` times; the bound `4` leaves room for the rounding. -/
theorem sineEnclosureIsSound : Obligations.SineEnclosureIsSound := by
  unfold Obligations.SineEnclosureIsSound
  intro k r
  obtain ⟨hlower, hupper, hwidth⟩ := sinEnclosure_spec k r
  refine ⟨hlower, hupper, ?_⟩
  rw [← Rat.cast_le (K := ℝ)]
  push_cast
  exact hwidth

end Sys2Proof.Proofs
end

-- ==== Proofs: 41_modulator.md, the samples and the real formula ====
section
/-!
SUPPORT. Proof of the statement on the samples (R151, R158): rounding to binary32 below 1, and the reference sample.
-/

-- One declaration after another: fewer threads, and so less memory, at a time.
set_option Elab.async false

namespace Sys2Proof.Machine

/-! Patterns without sign. -/

/-- The magnitude of a pattern without sign, in units of `2^-149`. -/
def patternValue (P : Nat) : Nat := if P / 2 ^ 23 = 0 then P % 2 ^ 23 else (2 ^ 23 + P % 2 ^ 23) * 2 ^ (P / 2 ^ 23 - 1)

/-- The pattern `e * 2^23 + m` is the value `m * 2^e`, also where `m` carries out of the fraction. -/
theorem patternValue_eq {e m : Nat} (hm : m ≤ 2 ^ 24) (he : e = 0 ∨ 2 ^ 23 ≤ m) : patternValue (e * 2 ^ 23 + m) = m * 2 ^ e := by
  unfold patternValue
  rcases Nat.lt_or_ge m (2 ^ 23) with hsmall | hbig
  · obtain rfl : e = 0 := by omega
    rw [if_pos (by omega)]
    omega
  · rcases Nat.lt_or_ge m (2 ^ 24) with hlt | hge
    · have hdiv : (e * 2 ^ 23 + m) / 2 ^ 23 = e + 1 := by omega
      have hmod : (e * 2 ^ 23 + m) % 2 ^ 23 = m - 2 ^ 23 := by omega
      rw [hdiv, hmod, if_neg (by omega), Nat.add_sub_cancel' hbig, Nat.add_sub_cancel]
    · obtain rfl : m = 2 ^ 24 := by omega
      have hdiv : (e * 2 ^ 23 + 2 ^ 24) / 2 ^ 23 = e + 2 := by omega
      have hmod : (e * 2 ^ 23 + 2 ^ 24) % 2 ^ 23 = 0 := by omega
      rw [hdiv, hmod, if_neg (by omega), Nat.add_zero, show e + 2 - 1 = e + 1 by omega, pow_succ 2 e]
      ring

/-- The value one pattern below: a step of `2^e`, or of half that below a power of two. -/
theorem patternValue_pred {e m : Nat} (hm : m ≤ 2 ^ 24) (he : e = 0 ∨ 2 ^ 23 ≤ m) (hpos : 1 ≤ e * 2 ^ 23 + m) :
    ((e = 0 ∨ 2 ^ 23 < m) ∧ patternValue (e * 2 ^ 23 + m - 1) + 2 ^ e = m * 2 ^ e) ∨
      (m = 2 ^ 23 ∧ 1 ≤ e ∧ patternValue (e * 2 ^ 23 + m - 1) + 2 ^ (e - 1) = m * 2 ^ e) := by
  by_cases hinner : e = 0 ∨ 2 ^ 23 + 1 ≤ m
  · left
    have hm1 : 1 ≤ m := by omega
    refine ⟨hinner, ?_⟩
    rw [Nat.add_sub_assoc hm1, patternValue_eq (by omega) (by omega)]
    obtain ⟨k, rfl⟩ : ∃ k, m = k + 1 := ⟨m - 1, by omega⟩
    rw [Nat.add_sub_cancel, Nat.add_mul, Nat.one_mul]
  · right
    obtain rfl : m = 2 ^ 23 := by omega
    obtain ⟨k, rfl⟩ : ∃ k, e = k + 1 := ⟨e - 1, by omega⟩
    refine ⟨rfl, by omega, ?_⟩
    rw [show (k + 1) * 2 ^ 23 + 2 ^ 23 - 1 = k * 2 ^ 23 + (2 ^ 24 - 1) by omega, patternValue_eq (by omega) (by omega),
      Nat.add_sub_cancel, pow_succ 2 k]
    ring

theorem roundEven_spec (n d : Nat) (hd : 0 < d) : 2 * n ≤ 2 * (roundEven n d * d) + d ∧ 2 * (roundEven n d * d) ≤ 2 * n + d := by
  have hdiv : n / d * d + n % d = n := Nat.div_add_mod' n d
  have hmod := Nat.mod_lt n hd
  simp only [roundEven]
  generalize n / d = q at *
  generalize n % d = r at *
  subst hdiv
  have hsucc : (q + 1) * d = q * d + d := Nat.succ_mul q d
  split
  · omega
  · split
    · rw [hsucc]; omega
    · split
      · omega
      · rw [hsucc]; omega

/-- A number between two multiples of the unit rounds to one between them. -/
theorem roundEven_mem {n d a b : Nat} (hd : 0 < d) (ha : a * d ≤ n) (hb : n < b * d) : a ≤ roundEven n d ∧ roundEven n d ≤ b := by
  obtain ⟨hup, hlow⟩ := roundEven_spec n d hd
  generalize roundEven n d = m at *
  constructor
  · by_contra h
    have : (m + 1) * d ≤ a * d := Nat.mul_le_mul_right _ (by omega)
    rw [Nat.succ_mul] at this
    omega
  · by_contra h
    have : (b + 1) * d ≤ m * d := Nat.mul_le_mul_right _ (by omega)
    rw [Nat.succ_mul] at this
    omega

/-- The exponent and the rounded significand of a magnitude `n / d`. -/
structure Rounded (n d e m : Nat) : Prop where
  size : m ≤ 2 ^ 24
  normal : e = 0 ∨ (2 ^ 23 ≤ m ∧ 2 ^ (e + 23) * d ≤ n)
  below : 2 * n ≤ 2 * (m * (d * 2 ^ e)) + d * 2 ^ e
  above : 2 * (m * (d * 2 ^ e)) ≤ 2 * n + d * 2 ^ e

theorem rounded_of_pos {n d : Nat} (hd : 0 < d) :
    Rounded n d (Nat.log2 (n / d) - 23) (roundEven n (d * 2 ^ (Nat.log2 (n / d) - 23))) := by
  have hD : 0 < d * 2 ^ (Nat.log2 (n / d) - 23) := by positivity
  obtain ⟨hbelow, habove⟩ := roundEven_spec n _ hD
  have hlt : n < 2 ^ (Nat.log2 (n / d) + 1) * d := (Nat.div_lt_iff_lt_mul hd).1 Nat.lt_log2_self
  rcases Nat.lt_or_ge (Nat.log2 (n / d)) 24 with hsmall | hbig
  · have he : Nat.log2 (n / d) - 23 = 0 := by omega
    rw [he] at hD hbelow habove ⊢
    refine ⟨(roundEven_mem hD (a := 0) (by omega) ?_).2, .inl rfl, hbelow, habove⟩
    calc n < 2 ^ (Nat.log2 (n / d) + 1) * d := hlt
      _ ≤ 2 ^ 24 * (d * 2 ^ 0) := by
        rw [pow_zero, mul_one]; exact Nat.mul_le_mul_right _ (Nat.pow_le_pow_right (by norm_num) (by omega))
  · obtain ⟨e, he⟩ : ∃ e, Nat.log2 (n / d) = e + 23 := ⟨Nat.log2 (n / d) - 23, by omega⟩
    have hne : n / d ≠ 0 := by
      intro h0
      rw [h0, show Nat.log2 0 = 0 from rfl] at he
      omega
    have hge : 2 ^ Nat.log2 (n / d) * d ≤ n := (Nat.le_div_iff_mul_le hd).1 (Nat.log2_self_le hne)
    rw [he] at hlt hge
    rw [he, Nat.add_sub_cancel] at hD hbelow habove ⊢
    have hmem := roundEven_mem hD (a := 2 ^ 23) (b := 2 ^ 24) (n := n)
      (by calc 2 ^ 23 * (d * 2 ^ e) = 2 ^ (e + 23) * d := by rw [pow_add]; ring
            _ ≤ n := hge)
      (by calc n < 2 ^ (e + 23 + 1) * d := hlt
            _ = 2 ^ 24 * (d * 2 ^ e) := by rw [pow_add, pow_add]; ring)
    exact ⟨hmem.2, .inr ⟨hmem.1, hge⟩, hbelow, habove⟩

/-- Rounding a magnitude of at most 1: the pattern is below that of 2, the error at most half a unit in the last place below 1, and the
next value towards zero is past the magnitude rounded. -/
theorem f32Pattern_spec {n d : Nat} (hd : 0 < d) (hle : n ≤ 2 ^ 149 * d) :
    f32Pattern n d < 0x40000001 ∧ n ≤ (patternValue (f32Pattern n d) + 2 ^ 124) * d ∧
      patternValue (f32Pattern n d) * d ≤ n + 2 ^ 124 * d ∧
      (1 ≤ f32Pattern n d → patternValue (f32Pattern n d - 1) * d ≤ n ∧
        patternValue (f32Pattern n d - 1) ≤ patternValue (f32Pattern n d) ∧
        patternValue (f32Pattern n d) ≤ patternValue (f32Pattern n d - 1) + 2 ^ 125) := by
  have hround := rounded_of_pos (n := n) hd
  have hpattern : f32Pattern n d =
      Nat.min ((Nat.log2 (n / d) - 23) * 2 ^ 23 + roundEven n (d * 2 ^ (Nat.log2 (n / d) - 23))) 0x7F800000 := rfl
  rw [hpattern]
  generalize Nat.log2 (n / d) - 23 = e at *
  generalize roundEven n (d * 2 ^ e) = m at *
  obtain ⟨hsize, hnormal, hbelow, habove⟩ := hround
  -- the exponent is at most 126, and 126 for the magnitude 1 alone
  have he : e ≤ 126 := by
    rcases hnormal with rfl | ⟨-, hge⟩
    · omega
    · have : 2 ^ (e + 23) ≤ 2 ^ 149 := Nat.le_of_mul_le_mul_right (hge.trans hle) hd
      have := (Nat.pow_le_pow_iff_right (by norm_num)).1 this
      omega
  rw [show Nat.min (e * 2 ^ 23 + m) 0x7F800000 = e * 2 ^ 23 + m from Nat.min_eq_left (by omega)]
  have hvalue := patternValue_eq hsize (hnormal.imp_right And.left)
  have hscale : m * (d * 2 ^ e) = patternValue (e * 2 ^ 23 + m) * d := by rw [hvalue]; ring
  rw [hscale] at hbelow habove
  have hpred := patternValue_pred hsize (hnormal.imp_right And.left)
  rw [← hvalue] at hpred
  generalize patternValue (e * 2 ^ 23 + m) = v at *
  generalize hu : patternValue (e * 2 ^ 23 + m - 1) = u at *
  rcases Nat.lt_or_ge e 126 with hlt | hge
  · -- a unit of at most 2^125
    have hunit : 2 ^ e ≤ 2 ^ 125 := Nat.pow_le_pow_right (by norm_num) (by omega)
    have hunit0 : 0 < 2 ^ e := by positivity
    have hunit' : d * 2 ^ e ≤ d * 2 ^ 125 := Nat.mul_le_mul_left _ hunit
    refine ⟨by omega, by rw [Nat.add_mul]; omega, by omega, fun hpos => ?_⟩
    rcases hpred hpos with ⟨-, hstep⟩ | ⟨rfl, he1, hstep⟩
    · have hstep' : u * d + d * 2 ^ e = v * d := by rw [← hstep]; ring
      exact ⟨by omega, by omega, by omega⟩
    · obtain ⟨-, hge⟩ : 2 ^ 23 ≤ 2 ^ 23 ∧ 2 ^ (e + 23) * d ≤ n := hnormal.resolve_left (by omega)
      have hv : v * d = 2 ^ (e + 23) * d := by rw [hvalue, pow_add]; ring
      have hhalf0 : 0 < 2 ^ (e - 1) := by positivity
      have hhalf : 2 ^ (e - 1) ≤ 2 ^ e := Nat.pow_le_pow_right (by norm_num) (by omega)
      have hud : u * d ≤ v * d := Nat.mul_le_mul_right _ (by omega)
      exact ⟨by omega, by omega, by omega⟩
  · -- the magnitude is 1, and it is exact
    obtain rfl : e = 126 := by omega
    obtain ⟨hm, hge⟩ := hnormal.resolve_left (by omega)
    rw [show 126 + 23 = 149 from rfl] at hge
    obtain rfl : n = 2 ^ 149 * d := le_antisymm hle hge
    obtain rfl : m = 2 ^ 23 := by
      by_contra hne
      have hv : v = m * 2 ^ 126 := hvalue
      have : (2 ^ 23 + 1) * 2 ^ 126 * d ≤ v * d := by
        rw [hv]
        exact Nat.mul_le_mul_right _ (Nat.mul_le_mul_right _ (by omega))
      rw [show (2 ^ 23 + 1) * 2 ^ 126 * d = 2 ^ 149 * d + d * 2 ^ 126 by ring] at this
      have : 0 < d * 2 ^ 126 := by positivity
      omega
    have hv : v = 2 ^ 149 := by rw [hvalue, ← pow_add]
    subst hv
    refine ⟨by norm_num, by rw [Nat.add_mul]; omega, by omega, fun hpos => ?_⟩
    rcases hpred hpos with ⟨hinner, -⟩ | ⟨-, -, hstep⟩
    · omega
    · have hud : u * d ≤ 2 ^ 149 * d := Nat.mul_le_mul_right _ (by omega)
      exact ⟨hud, by omega, by omega⟩

/-! Patterns with a sign. -/

/-- The binary32 pattern of a sign and a pattern without one. -/
def signedPattern (neg : Bool) (P : Nat) : Sample := BitVec.ofNat 32 ((if neg then 2 ^ 31 else 0) + P)

theorem signedPattern_toNat (neg : Bool) {P : Nat} (h : P < 2 ^ 31) :
    (signedPattern neg P).toNat = (if neg then 2 ^ 31 else 0) + P := by
  rw [signedPattern, BitVec.toNat_ofNat]
  cases neg <;> simp <;> omega

theorem signedPattern_exponent (neg : Bool) {P : Nat} (h : P < 2 ^ 31) : f32Exponent (signedPattern neg P) = P / 2 ^ 23 := by
  rw [f32Exponent, BitVec.extractLsb'_toNat, signedPattern_toNat neg h, Nat.shiftRight_eq_div_pow]
  cases neg <;> simp <;> omega

theorem signedPattern_fraction (neg : Bool) {P : Nat} (h : P < 2 ^ 31) : f32Fraction (signedPattern neg P) = P % 2 ^ 23 := by
  rw [f32Fraction, BitVec.extractLsb'_toNat, signedPattern_toNat neg h, Nat.shiftRight_zero]
  cases neg <;> simp
  omega

theorem signedPattern_msb (neg : Bool) {P : Nat} (h : P < 2 ^ 31) : (signedPattern neg P).msb = neg := by
  rw [BitVec.msb_eq_decide, signedPattern_toNat neg h]
  cases neg <;> simp
  omega

theorem signedPattern_value (neg : Bool) {P : Nat} (h : P < 2 ^ 31) :
    f32Value (signedPattern neg P) = (if neg then -1 else 1) * (patternValue P : Rat) / 2 ^ 149 := by
  have hmag : f32Magnitude (signedPattern neg P) = patternValue P := by
    rw [f32Magnitude, signedPattern_exponent neg h, signedPattern_fraction neg h, patternValue]
  rw [f32Value, f32Scaled, signedPattern_msb neg h, hmag]
  cases neg <;> norm_num

theorem signedPattern_finite (neg : Bool) {P : Nat} (h : P < 0x7F800000) : f32Finite (signedPattern neg P) = true := by
  rw [f32Finite, signedPattern_exponent neg (by omega)]
  simp
  omega

theorem signedPattern_pred (neg : Bool) {P : Nat} (h : 1 ≤ P) (h' : P < 2 ^ 31) :
    signedPattern neg P - 1#32 = signedPattern neg (P - 1) := by
  apply BitVec.eq_of_toNat_eq
  rw [BitVec.toNat_sub, signedPattern_toNat neg h', signedPattern_toNat neg (by omega)]
  cases neg <;> simp <;> omega

theorem f32Nearest_eq (x : Rat) {P : Nat} (hP : P = f32Pattern (x.num.natAbs * 2 ^ 149) x.den) (h : P < 2 ^ 31) :
    f32Nearest x = signedPattern (decide (x < 0)) P := by
  subst hP
  simp only [f32Nearest]
  generalize f32Pattern (x.num.natAbs * 2 ^ 149) x.den = P at *
  split
  · next hneg =>
    apply BitVec.eq_of_toNat_eq
    rw [signedPattern_toNat _ h, BitVec.toNat_or, BitVec.toNat_ofNat (x := P), Nat.mod_eq_of_lt (by omega), decide_eq_true hneg]
    exact (Nat.two_pow_add_eq_or_of_lt h 1).symm
  · next hneg =>
    rw [signedPattern, decide_eq_false hneg]
    simp

/-! Rounding a number of magnitude at most 1 (00_scope.md R13). -/

/-- One unit in the last place of binary32 below 1. -/
def unitBelowOne : Rat := 1 / 16777216

/-- What rounding to binary32 does to a number of magnitude at most 1. -/
structure RoundsTo (x : Rat) (s : Sample) : Prop where
  finite : f32Finite s = true
  near : |f32Value s - x| ≤ unitBelowOne / 2
  predFinite : f32Value s ≠ 0 → f32Finite (s - 1#32) = true
  predLe : f32Value s ≠ 0 → |f32Value (s - 1#32)| ≤ |x|
  predOfPos : 0 < f32Value s → f32Value s - unitBelowOne ≤ f32Value (s - 1#32) ∧ f32Value (s - 1#32) ≤ f32Value s
  predOfNeg : f32Value s < 0 → f32Value s ≤ f32Value (s - 1#32) ∧ f32Value (s - 1#32) ≤ f32Value s + unitBelowOne

theorem rat_abs_eq_num_div_den (x : Rat) : |x| = (x.num.natAbs : Rat) / x.den := by
  rw [Rat.abs_def, Rat.divInt_eq_div]
  simp

theorem f32Nearest_roundsTo {x : Rat} (hx : |x| ≤ 1) : RoundsTo x (f32Nearest x) := by
  have hden : (0 : Rat) < x.den := by exact_mod_cast x.den_pos
  have habs := rat_abs_eq_num_div_den x
  have hle : x.num.natAbs * 2 ^ 149 ≤ 2 ^ 149 * x.den := by
    rw [habs, div_le_one hden] at hx
    rw [Nat.mul_comm]
    exact Nat.mul_le_mul_left _ (by exact_mod_cast hx)
  obtain ⟨hbound, hbelow, habove, hpred⟩ := f32Pattern_spec x.den_pos hle
  rw [f32Nearest_eq x rfl (by omega)]
  generalize f32Pattern (x.num.natAbs * 2 ^ 149) x.den = P at *
  -- the same facts about the magnitude of the number
  have hnum : (x.num.natAbs : Rat) = |x| * x.den := by rw [habs, div_mul_cancel₀ _ hden.ne']
  have hbelow' : |x| * 2 ^ 149 ≤ patternValue P + 2 ^ 124 := by
    have : (x.num.natAbs : Rat) * 2 ^ 149 ≤ (patternValue P + 2 ^ 124) * x.den := by exact_mod_cast hbelow
    rw [hnum] at this
    exact le_of_mul_le_mul_right (by linarith) hden
  have habove' : (patternValue P : Rat) ≤ |x| * 2 ^ 149 + 2 ^ 124 := by
    have : (patternValue P : Rat) * x.den ≤ x.num.natAbs * 2 ^ 149 + 2 ^ 124 * x.den := by exact_mod_cast habove
    rw [hnum] at this
    exact le_of_mul_le_mul_right (by linarith) hden
  have hpos : f32Value (signedPattern (decide (x < 0)) P) ≠ 0 → 1 ≤ P := by
    intro hne
    by_contra h0
    obtain rfl : P = 0 := by omega
    exact hne (by rw [signedPattern_value _ (by norm_num)]; simp [patternValue])
  have hpred' : 1 ≤ P → (patternValue (P - 1) : Rat) ≤ |x| * 2 ^ 149 ∧ (patternValue (P - 1) : Rat) ≤ patternValue P ∧
      (patternValue P : Rat) ≤ patternValue (P - 1) + 2 ^ 125 := by
    intro h1
    obtain ⟨ha, hb, hc⟩ := hpred h1
    have ha' : (patternValue (P - 1) : Rat) * x.den ≤ x.num.natAbs * 2 ^ 149 := by exact_mod_cast ha
    rw [hnum] at ha'
    exact ⟨le_of_mul_le_mul_right (by linarith) hden, by exact_mod_cast hb, by exact_mod_cast hc⟩
  have hv0 : (0 : Rat) ≤ patternValue P := by positivity
  have hu0 : (0 : Rat) ≤ patternValue (P - 1) := by positivity
  have hvalue := signedPattern_value (decide (x < 0)) (P := P) (by omega)
  have hvaluePred := signedPattern_value (decide (x < 0)) (P := P - 1) (by omega)
  have hstep : 1 ≤ P → signedPattern (decide (x < 0)) P - 1#32 = signedPattern (decide (x < 0)) (P - 1) :=
    fun h1 => signedPattern_pred _ h1 (by omega)
  refine ⟨signedPattern_finite _ (by omega), ?_, fun hne => ?_, fun hne => ?_, fun hgt => ?_, fun hlt => ?_⟩
  · rw [hvalue, abs_le, unitBelowOne]
    rcases lt_or_ge x 0 with hx0 | hx0
    · rw [abs_of_neg hx0] at hbelow' habove'
      rw [decide_eq_true hx0, if_pos rfl]
      constructor <;> linarith
    · rw [abs_of_nonneg hx0] at hbelow' habove'
      rw [decide_eq_false (not_lt.2 hx0), if_neg Bool.false_ne_true]
      constructor <;> linarith
  · rw [hstep (hpos hne)]
    exact signedPattern_finite _ (by omega)
  · obtain ⟨hle, -⟩ := hpred' (hpos hne)
    rw [hstep (hpos hne), hvaluePred, abs_div, abs_mul, abs_of_nonneg hu0]
    have hsign : |(if decide (x < 0) = true then (-1 : Rat) else 1)| = 1 := by split <;> simp
    rw [hsign, one_mul, abs_of_pos (by positivity : (0 : Rat) < 2 ^ 149), div_le_iff₀ (by positivity)]
    exact hle
  · obtain ⟨-, hmono, hgap⟩ := hpred' (hpos hgt.ne')
    rw [hstep (hpos hgt.ne'), hvaluePred, hvalue, unitBelowOne]
    rw [hvalue] at hgt
    cases hsign : decide (x < 0) with
    | true => rw [hsign, if_pos rfl] at hgt; exact absurd hgt (by linarith)
    | false => rw [if_neg Bool.false_ne_true]; constructor <;> linarith
  · obtain ⟨-, hmono, hgap⟩ := hpred' (hpos hlt.ne)
    rw [hstep (hpos hlt.ne), hvaluePred, hvalue, unitBelowOne]
    rw [hvalue] at hlt
    cases hsign : decide (x < 0) with
    | true => rw [if_pos rfl]; constructor <;> linarith
    | false => rw [hsign, if_neg Bool.false_ne_true] at hlt; exact absurd hlt (by linarith)

/-! The enclosure of the sample. -/

/-- `y` of 41_modulator.md R151 for the factor `q` of the sine and `r` turns. -/
noncomputable def scaledSin (q r : Rat) : ℝ := (q : ℝ) * Real.sin (2 * Real.pi * (r : ℝ))

theorem abs_scaledSin_le {q : Rat} (hq : 0 ≤ q) (r : Rat) : |scaledSin q r| ≤ q := by
  have hq' : (0 : ℝ) ≤ q := by exact_mod_cast hq
  rw [scaledSin, abs_mul, abs_of_nonneg hq']
  exact mul_le_of_le_one_right hq' (Real.abs_sin_le_one _)

theorem scaledSinEnclosure_spec {q : Rat} (hq : 0 ≤ q) (r : Rat) (k : Nat) :
    ((scaledSinEnclosure q r k).1 : ℝ) ≤ scaledSin q r ∧ scaledSin q r ≤ ((scaledSinEnclosure q r k).2 : ℝ) ∧
      ((scaledSinEnclosure q r k).2 : ℝ) - ((scaledSinEnclosure q r k).1 : ℝ) ≤ q * (4 / 2 ^ k) := by
  obtain ⟨hlow, hupp, hwidth⟩ := sinEnclosure_spec k r
  have hq' : (0 : ℝ) ≤ q := by exact_mod_cast hq
  simp only [scaledSinEnclosure, scaledSin, Rat.cast_mul, ← mul_sub]
  exact ⟨mul_le_mul_of_nonneg_left hlow hq', mul_le_mul_of_nonneg_left hupp hq', mul_le_mul_of_nonneg_left hwidth hq'⟩

/-- The ends of the enclosure of a sine are sines too. -/
theorem sinEnclosure_abs_le_one (k : Nat) (r : Rat) : |(sinEnclosure k r).1| ≤ 1 ∧ |(sinEnclosure k r).2| ≤ 1 := by
  rw [← Rat.cast_le (K := ℝ), ← Rat.cast_le (K := ℝ)]
  push_cast
  cases hexact : exactSin r with
  | some v =>
    rw [sinEnclosure_of_exact hexact, ← sin_of_exactSin hexact]
    exact ⟨Real.abs_sin_le_one _, Real.abs_sin_le_one _⟩
  | none =>
    obtain ⟨e, he, h1, h2⟩ := sinEnclosure_of_inexact hexact k
    rw [h1, h2]
    have := he.lower.trans he.upper
    exact ⟨abs_le.2 ⟨he.low, this.trans he.high⟩, abs_le.2 ⟨he.low.trans this, he.high⟩⟩

theorem scaledSinEnclosure_abs_le {q : Rat} (hq : 0 ≤ q) (r : Rat) (k : Nat) :
    |(scaledSinEnclosure q r k).1| ≤ q ∧ |(scaledSinEnclosure q r k).2| ≤ q := by
  obtain ⟨h1, h2⟩ := sinEnclosure_abs_le_one k r
  simp only [scaledSinEnclosure, abs_mul, abs_of_nonneg hq]
  exact ⟨mul_le_of_le_one_right hq h1, mul_le_of_le_one_right hq h2⟩

/-- A comparison that came out true at some precision is true of the real numbers (41_modulator.md R158). -/
theorem abs_sub_le_of_nearSin {q r eps v : Rat} (hq : 0 ≤ q) (h : nearSin q r eps v = true) :
    |(v : ℝ) - scaledSin q r| ≤ eps := by
  obtain ⟨k, hk⟩ : ∃ k, v - eps ≤ (scaledSinEnclosure q r k).1 ∧ (scaledSinEnclosure q r k).2 ≤ v + eps := by
    unfold nearSin at h
    cases hfind : (precisions q r eps).findSome? (fun k =>
        let e := scaledSinEnclosure q r k
        if v - eps ≤ e.1 ∧ e.2 ≤ v + eps then some true else if e.2 < v - eps ∨ v + eps < e.1 then some false else none) with
    | none => rw [hfind] at h; cases h
    | some b =>
      rw [hfind, Option.getD_some] at h
      subst h
      obtain ⟨k, -, hk⟩ := List.exists_of_findSome?_eq_some hfind
      refine ⟨k, ?_⟩
      dsimp only at hk
      split at hk
      · assumption
      · split at hk <;> cases hk
  obtain ⟨hlow, hupp, -⟩ := scaledSinEnclosure_spec hq r k
  have h1 : (v : ℝ) - eps ≤ ((scaledSinEnclosure q r k).1 : ℝ) := by exact_mod_cast hk.1
  have h2 : ((scaledSinEnclosure q r k).2 : ℝ) ≤ v + eps := by exact_mod_cast hk.2
  rw [abs_le]
  constructor <;> linarith

/-- The number that `f32OfSin` rounds: of magnitude at most `q`, and its rounding is within a unit in the last place below 1. -/
theorem f32OfSin_spec {q : Rat} (hq : 0 ≤ q) (hq1 : q ≤ 1) (r : Rat) :
    ∃ z : Rat, f32OfSin q r = f32Nearest z ∧ |z| ≤ q ∧ |(f32Value (f32Nearest z) : ℝ) - scaledSin q r| ≤ (unitBelowOne : ℝ) := by
  have hunit : ((unitBelowOne : Rat) : ℝ) = 1 / 16777216 := by norm_num [unitBelowOne]
  have hnear : ∀ z : Rat, |z| ≤ q → |(f32Value (f32Nearest z) : ℝ) - z| ≤ (unitBelowOne : ℝ) / 2 := by
    intro z hz
    exact_mod_cast (f32Nearest_roundsTo (hz.trans hq1)).near
  unfold f32OfSin
  cases hfind : (precisions q r 1).findSome? (fun k =>
      let e := scaledSinEnclosure q r k
      if f32Nearest e.1 = f32Nearest e.2 then some (f32Nearest e.1) else none) with
  | some s =>
    -- both ends round to the sample, and the real number is between them
    obtain ⟨k, -, hk⟩ := List.exists_of_findSome?_eq_some hfind
    dsimp only at hk
    split at hk
    · next hsame =>
      obtain ⟨hlow, hupp, -⟩ := scaledSinEnclosure_spec hq r k
      obtain ⟨h1, h2⟩ := scaledSinEnclosure_abs_le hq r k
      have hn1 := hnear _ h1
      have hn2 := hnear _ h2
      rw [← hsame] at hn2
      refine ⟨_, (Option.some.inj hk).symm, h1, ?_⟩
      rw [hunit] at *
      rw [abs_le] at *
      constructor <;> linarith
    · cases hk
  | none =>
    rw [Option.getD_none]
    obtain ⟨hlow, hupp, hwidth⟩ := scaledSinEnclosure_spec hq r 56
    obtain ⟨h1, h2⟩ := scaledSinEnclosure_abs_le hq r 56
    have hwidth' : ((scaledSinEnclosure q r 56).2 : ℝ) - ((scaledSinEnclosure q r 56).1 : ℝ) ≤ 1 / 2 ^ 54 := by
      have hq1' : (q : ℝ) ≤ 1 := by exact_mod_cast hq1
      refine hwidth.trans ?_
      norm_num
      linarith
    have hz : |nearestToZero (scaledSinEnclosure q r 56)| ≤ q ∧
        ((scaledSinEnclosure q r 56).1 : ℝ) ≤ nearestToZero (scaledSinEnclosure q r 56) ∧
        (nearestToZero (scaledSinEnclosure q r 56) : ℝ) ≤ (scaledSinEnclosure q r 56).2 := by
      have horder : (scaledSinEnclosure q r 56).1 ≤ (scaledSinEnclosure q r 56).2 := by exact_mod_cast hlow.trans hupp
      unfold nearestToZero
      split
      · exact ⟨h1, le_rfl, by exact_mod_cast horder⟩
      · next hpos =>
        split
        · exact ⟨h2, by exact_mod_cast horder, le_rfl⟩
        · next hneg => exact ⟨by rwa [abs_zero], by exact_mod_cast not_lt.1 hpos, by exact_mod_cast not_lt.1 hneg⟩
    obtain ⟨hzq, hz1, hz2⟩ := hz
    have hn := hnear _ hzq
    refine ⟨_, rfl, hzq, ?_⟩
    rw [hunit] at *
    rw [abs_le] at *
    constructor <;> linarith

/-! The reference sample. -/

theorem rampUp_mem (rampN i : Nat) (first : Bool) : 0 ≤ rampUp rampN i first ∧ rampUp rampN i first ≤ 1 := by
  unfold rampUp
  split
  · next h =>
    have hi : (i : Rat) ≤ rampN := by exact_mod_cast h.2.le
    exact ⟨by positivity, div_le_one_of_le₀ hi (by positivity)⟩
  · exact ⟨zero_le_one, le_rfl⟩

theorem rampDown_mem {sps i : Nat} (rampN : Nat) (last : Bool) (hi : i < sps) :
    0 ≤ rampDown sps rampN i last ∧ rampDown sps rampN i last ≤ 1 := by
  unfold rampDown
  split
  · next h =>
    have h1 : (i : Rat) + 1 ≤ sps := by exact_mod_cast hi
    have h2 : (sps : Rat) ≤ i + rampN := by exact_mod_cast h.2
    exact ⟨div_nonneg (by linarith) (by positivity), div_le_one_of_le₀ (by linarith) (by positivity)⟩
  · exact ⟨zero_le_one, le_rfl⟩

/-- The factor of the sine is between 0 and the amplitude. -/
theorem sampleScale_mem {c : CfgRegs} (ha : 0 < c.conf.amplitude) {i : Nat} (hi : i < c.sps) (first last : Bool) :
    0 ≤ sampleScale c i first last ∧ sampleScale c i first last ≤ c.conf.amplitude := by
  obtain ⟨hu0, hu1⟩ := rampUp_mem c.rampN i first
  obtain ⟨hd0, hd1⟩ := rampDown_mem c.rampN last hi
  have hau : 0 ≤ c.conf.amplitude * rampUp c.rampN i first := mul_nonneg ha.le hu0
  exact ⟨mul_nonneg hau hd0, (mul_le_of_le_one_right hau hd1).trans (mul_le_of_le_one_right ha.le hu1)⟩

/-- The real formula in the terms the machine decides it in. -/
theorem realOutput_eq (c : CfgRegs) (bit : Bool) (i : Nat) (first last : Bool) :
    realOutput c bit i first last = scaledSin (sampleScale c i first last) (samplePhase c bit i) := by
  have hangle : 2 * Real.pi * ((samplePhase c bit i : Rat) : ℝ) =
      2 * Real.pi * (toneOf c.conf bit : ℝ) * (i : ℝ) / (c.conf.sampleRate : ℝ) := by
    rw [samplePhase]
    push_cast
    ring
  rw [realOutput, scaledSin, hangle, sampleScale]
  push_cast
  ring

theorem withinAmplitude_of_le {c : CfgRegs} {x : Sample} (other : Sample) (hfin : f32Finite x = true)
    (hle : |f32Value x| ≤ c.conf.amplitude) : withinAmplitude c x other = x := by
  rw [withinAmplitude, if_pos ⟨hfin, by rwa [rat_abs_eq]⟩]

theorem withinAmplitude_of_gt {c : CfgRegs} {x : Sample} (other : Sample) (hgt : c.conf.amplitude < |f32Value x|) :
    withinAmplitude c x other = other := by
  rw [withinAmplitude, if_neg fun h => absurd h.2 (by rw [rat_abs_eq]; exact not_le.2 hgt)]

/-- The reference sample is within a unit in the last place below 1 of the real formula: the rounding, or, where this is past the
amplitude, the value one pattern towards zero, which is not. -/
theorem referenceSample_near {c : CfgRegs} (ha : 0 < c.conf.amplitude) (ha1 : c.conf.amplitude ≤ 1) (bit : Bool) {i : Nat}
    (hi : i < c.sps) (first last : Bool) :
    |(f32Value (referenceSample c bit i first last) : ℝ) - realOutput c bit i first last| ≤ (unitBelowOne : ℝ) := by
  obtain ⟨hq0, hqa⟩ := sampleScale_mem ha hi first last
  obtain ⟨z, hs, hzq, hnear⟩ := f32OfSin_spec hq0 (hqa.trans ha1) (samplePhase c bit i)
  have hround := f32Nearest_roundsTo (hzq.trans (hqa.trans ha1))
  have hy := abs_scaledSin_le hq0 (samplePhase c bit i)
  have hqa' : ((sampleScale c i first last : Rat) : ℝ) ≤ c.conf.amplitude := by exact_mod_cast hqa
  rw [realOutput_eq]
  simp only [referenceSample, hs]
  generalize scaledSin (sampleScale c i first last) (samplePhase c bit i) = y at *
  generalize f32Nearest z = x at *
  rcases le_or_gt |f32Value x| c.conf.amplitude with hle | hgt
  · rw [withinAmplitude_of_le _ hround.finite hle]
    exact hnear
  have hne : f32Value x ≠ 0 := abs_pos.1 (ha.trans hgt)
  rw [withinAmplitude_of_gt _ hgt,
    withinAmplitude_of_le _ (hround.predFinite hne) ((hround.predLe hne).trans (hzq.trans hqa))]
  rw [abs_le] at hy hnear ⊢
  rcases lt_or_gt_of_ne hne with hneg | hpos
  · obtain ⟨hlow, hupp⟩ := hround.predOfNeg hneg
    rw [abs_of_neg hneg] at hgt
    have hlow' : (f32Value x : ℝ) ≤ f32Value (x - 1#32) := by exact_mod_cast hlow
    have hupp' : (f32Value (x - 1#32) : ℝ) ≤ f32Value x + unitBelowOne := by exact_mod_cast hupp
    have hgt' : (c.conf.amplitude : ℝ) < -f32Value x := by exact_mod_cast hgt
    constructor <;> linarith
  · obtain ⟨hlow, hupp⟩ := hround.predOfPos hpos
    rw [abs_of_pos hpos] at hgt
    have hlow' : (f32Value x : ℝ) - unitBelowOne ≤ f32Value (x - 1#32) := by exact_mod_cast hlow
    have hupp' : (f32Value (x - 1#32) : ℝ) ≤ f32Value x := by exact_mod_cast hupp
    have hgt' : (c.conf.amplitude : ℝ) < f32Value x := by exact_mod_cast hgt
    constructor <;> linarith

/-- Where a factor of the product is zero, so is the real formula (41_modulator.md R158). -/
theorem realOutput_of_zero {c : CfgRegs} {i : Nat} {last : Bool} (h : sampleIsZero c i last = true) (bit first : Bool) :
    realOutput c bit i first last = 0 := by
  rcases (sampleIsZero_iff c i last).1 h with rfl | ⟨hlast, hramp, hi⟩
  · simp [realOutput]
  · have hdown : rampDown c.sps c.rampN i last = 0 := by
      rw [rampDown, if_pos ⟨hlast, by omega⟩, ← hi]
      push_cast
      simp
    rw [realOutput, hdown]
    simp

end Sys2Proof.Machine

namespace Sys2Proof.Proofs
open Sys2Proof.Machine

/-- Settles O39: an exact zero, a sample that the exact comparison has let through, or the reference sample. -/
theorem samplesFollowTheFormula : Obligations.SamplesFollowTheFormula := by
  unfold Obligations.SamplesFollowTheFormula
  intro p c bit i first last eps hsampling ha ha1 _ hi
  have heps : ((eps : Rat) : ℝ) ≤ ((max eps (1 / 16777216) : Rat) : ℝ) := by exact_mod_cast le_max_left eps (1 / 16777216)
  have hunit : (unitBelowOne : ℝ) ≤ ((max eps (1 / 16777216) : Rat) : ℝ) := by exact_mod_cast le_max_right eps (1 / 16777216)
  have hunit0 : (0 : ℝ) ≤ unitBelowOne := by norm_num [unitBelowOne]
  rcases sampleOut_cases p c bit i first last with ⟨hz, hzero⟩ | ⟨-, href | ⟨eps', hwithin, hallowed⟩⟩
  · have hvalue : f32Value (sampleOut p c bit i first last) = 0 := by
      rcases hzero with h | h
      · rw [h, f32Value_zero]
      · rw [h, f32Value_negZero]
    rw [hvalue, realOutput_of_zero hz, Rat.cast_zero, sub_zero, abs_zero]
    exact hunit0.trans hunit
  · rw [href]
    exact (referenceSample_near ha ha1 bit hi first last).trans hunit
  · obtain rfl : eps' = eps := by
      rcases hsampling with h | ⟨h, -⟩
      · rw [hwithin] at h; exact Sampling.within.inj h
      · rw [hwithin] at h; cases h
    obtain ⟨hq0, -⟩ := sampleScale_mem ha hi first last
    simp only [sampleAllowed, Bool.and_eq_true] at hallowed
    rw [realOutput_eq]
    exact (abs_sub_le_of_nearSin hq0 hallowed.2).trans heps

end Sys2Proof.Proofs
end

-- ==== Proofs: 42_demodulator.md, the detector and the real peaks ====
section
/-!
SUPPORT. Proof of the statement on the detector (R173 to R178): the value of an exact number as a real one, the sums of cosines of
Clenshaw's recurrence, the powers and the peaks.
-/

-- One declaration after another: fewer threads, and so less memory, at a time.
set_option Elab.async false

namespace Sys2Proof.Machine

/-! The value of an exact number (log 13). -/

/-- `t k = 2 cos (2 pi / 2^k)`. -/
noncomputable def surdGen (k : Nat) : ℝ := 2 * Real.cos (2 * Real.pi / 2 ^ k)

theorem surdGen_two : surdGen 2 = 0 := by
  rw [surdGen, show 2 * Real.pi / 2 ^ 2 = Real.pi / 2 by ring, Real.cos_pi_div_two, mul_zero]

theorem surdGen_sq (k : Nat) : surdGen (k + 1) ^ 2 = 2 + surdGen k := by
  have hdouble : 2 * Real.pi / 2 ^ k = 2 * (2 * Real.pi / 2 ^ (k + 1)) := by rw [pow_succ]; field_simp
  rw [surdGen, surdGen, hdouble, Real.cos_two_mul]
  ring

theorem surdGen_pos (k : Nat) : 0 < surdGen (k + 3) := by
  have hpi := Real.pi_pos
  have hpow : (8 : ℝ) ≤ 2 ^ (k + 3) := by
    rw [pow_add]
    have : (1 : ℝ) ≤ 2 ^ k := one_le_pow₀ (by norm_num)
    linarith
  have hangle : 2 * Real.pi / 2 ^ (k + 3) < Real.pi / 2 := by
    rw [div_lt_div_iff₀ (by positivity) (by norm_num)]
    nlinarith
  have hcos := Real.cos_pos_of_mem_Ioo ⟨(by linarith [show 0 ≤ 2 * Real.pi / 2 ^ (k + 3) by positivity] :
    -(Real.pi / 2) < 2 * Real.pi / 2 ^ (k + 3)), hangle⟩
  rw [surdGen]
  linarith

/-- The real number that an exact one stands for. -/
noncomputable def surdValue : (n : Nat) → Surd n → ℝ
  | 0, a => ((show Int from a) : ℝ)
  | n + 1, a => surdValue n a.1 + surdValue n a.2 * surdGen (n + 3)

@[simp] theorem surdValue_ofInt (n : Nat) (z : Int) : surdValue n (surdOfInt n z) = z := by
  induction n generalizing z with
  | zero => rfl
  | succ n ih => simp [surdValue, surdOfInt, ih]

@[simp] theorem surdValue_add (n : Nat) (a b : Surd n) : surdValue n (surdAdd n a b) = surdValue n a + surdValue n b := by
  induction n with
  | zero => exact Int.cast_add _ _
  | succ n ih =>
    simp only [surdValue, surdAdd, ih]
    ring

@[simp] theorem surdValue_neg (n : Nat) (a : Surd n) : surdValue n (surdNeg n a) = -surdValue n a := by
  induction n with
  | zero => exact Int.cast_neg _
  | succ n ih =>
    simp only [surdValue, surdNeg, ih]
    ring

@[simp] theorem surdValue_sub (n : Nat) (a b : Surd n) : surdValue n (surdSub n a b) = surdValue n a - surdValue n b := by
  rw [surdSub, surdValue_add, surdValue_neg, sub_eq_add_neg]

@[simp] theorem surdValue_mulGen (n : Nat) (a : Surd n) : surdValue n (surdMulGen n a) = surdValue n a * surdGen (n + 2) := by
  induction n with
  | zero => rw [surdGen_two, mul_zero]; exact Int.cast_zero
  | succ n ih =>
    have hsq := surdGen_sq (n + 2)
    simp only [surdValue, surdMulGen, surdValue_add, ih]
    linear_combination (-surdValue n a.2) * hsq

@[simp] theorem surdValue_mul (n : Nat) (a b : Surd n) : surdValue n (surdMul n a b) = surdValue n a * surdValue n b := by
  induction n with
  | zero => exact Int.cast_mul _ _
  | succ n ih =>
    have hsq := surdGen_sq (n + 2)
    simp only [surdValue, surdMul, surdValue_add, surdValue_mulGen, ih]
    linear_combination (-(surdValue n a.2 * surdValue n b.2)) * hsq

/-- `z` is the sign of `x`. -/
def IsSign (z : Int) (x : ℝ) : Prop := (z = 1 ∧ 0 < x) ∨ (z = 0 ∧ x = 0) ∨ (z = -1 ∧ x < 0)

theorem IsSign.eq_one_iff {z : Int} {x : ℝ} (h : IsSign z x) : z = 1 ↔ 0 < x := by
  rcases h with ⟨rfl, hx⟩ | ⟨rfl, rfl⟩ | ⟨rfl, hx⟩
  · simp [hx]
  · simp
  · simp [hx.le]

theorem isSign_int (z : Int) : IsSign (Int.sign z) z := by
  rcases lt_trichotomy z 0 with h | rfl | h
  · exact .inr (.inr ⟨Int.sign_eq_neg_one_of_neg h, by exact_mod_cast h⟩)
  · exact .inr (.inl ⟨rfl, Int.cast_zero⟩)
  · exact .inl ⟨Int.sign_eq_one_of_pos h, by exact_mod_cast h⟩

theorem IsSign.neg {z : Int} {x : ℝ} (h : IsSign z x) : IsSign (-z) (-x) := by
  rcases h with ⟨rfl, hx⟩ | ⟨rfl, rfl⟩ | ⟨rfl, hx⟩
  · exact .inr (.inr ⟨rfl, by linarith⟩)
  · exact .inr (.inl ⟨rfl, neg_zero⟩)
  · exact .inl ⟨rfl, by linarith⟩

/-- Of a positive and a negative number the one of larger square gives the sign of the sum. -/
theorem IsSign.of_squares {z : Int} {a b : ℝ} (ha : 0 < a) (hb : b < 0) (h : IsSign z (a ^ 2 - b ^ 2)) : IsSign z (a + b) := by
  have hfactor : a ^ 2 - b ^ 2 = (a - b) * (a + b) := by ring
  have hpos : 0 < a - b := by linarith
  rw [hfactor] at h
  rcases h with ⟨hz, hx⟩ | ⟨hz, hx⟩ | ⟨hz, hx⟩
  · exact .inl ⟨hz, (mul_pos_iff_of_pos_left hpos).1 hx⟩
  · exact .inr (.inl ⟨hz, (mul_eq_zero.1 hx).resolve_left hpos.ne'⟩)
  · refine .inr (.inr ⟨hz, ?_⟩)
    by_contra hge
    exact absurd hx (not_lt.2 (mul_nonneg hpos.le (not_lt.1 hge)))

/-- The sign is that of the real number. -/
theorem surdSign_isSign (n : Nat) (a : Surd n) : IsSign (surdSign n a) (surdValue n a) := by
  induction n with
  | zero => exact isSign_int _
  | succ n ih =>
    have hgen := surdGen_pos n
    have hsq := surdGen_sq (n + 2)
    have h1 := ih a.1
    have h2 := ih a.2
    -- the difference of the two squares
    have hd := ih (surdSub n (surdMul n a.1 a.1)
      (surdAdd n (surdAdd n (surdMul n a.2 a.2) (surdMul n a.2 a.2)) (surdMulGen n (surdMul n a.2 a.2))))
    simp only [surdValue_sub, surdValue_add, surdValue_mul, surdValue_mulGen] at hd
    have hsquares : surdValue n a.1 * surdValue n a.1 - (surdValue n a.2 * surdValue n a.2 + surdValue n a.2 * surdValue n a.2 +
        surdValue n a.2 * surdValue n a.2 * surdGen (n + 2)) = surdValue n a.1 ^ 2 - (surdValue n a.2 * surdGen (n + 3)) ^ 2 := by
      linear_combination (surdValue n a.2 * surdValue n a.2) * hsq
    rw [hsquares] at hd
    simp only [surdSign, surdValue]
    generalize surdSign n (surdSub n _ _) = d at *
    rcases h2 with ⟨hs2, hv2⟩ | ⟨hs2, hv2⟩ | ⟨hs2, hv2⟩
    · have hb : 0 < surdValue n a.2 * surdGen (n + 3) := mul_pos hv2 hgen
      rcases h1 with ⟨hs1, hv1⟩ | ⟨hs1, hv1⟩ | ⟨hs1, hv1⟩
      · rw [hs1, hs2]
        exact .inl ⟨rfl, by linarith⟩
      · rw [hs1, hs2, hv1]
        exact .inl ⟨rfl, by linarith⟩
      · rw [hs1, hs2]
        have hneg := IsSign.of_squares (z := d) (a := -surdValue n a.1) (b := -(surdValue n a.2 * surdGen (n + 3))) (by linarith)
          (by linarith) (by rwa [neg_sq, neg_sq])
        have := hneg.neg
        rw [← neg_add, neg_neg] at this
        simpa using this
    · rw [hs2, hv2, zero_mul, add_zero, if_pos rfl]
      exact h1
    · have hb : surdValue n a.2 * surdGen (n + 3) < 0 := mul_neg_of_neg_of_pos hv2 hgen
      rcases h1 with ⟨hs1, hv1⟩ | ⟨hs1, hv1⟩ | ⟨hs1, hv1⟩
      · rw [hs1, hs2]
        simpa using IsSign.of_squares hv1 hb hd
      · rw [hs1, hs2, hv1]
        exact .inr (.inr ⟨rfl, by linarith⟩)
      · rw [hs1, hs2]
        exact .inr (.inr ⟨rfl, by linarith⟩)

theorem surdLt_iff (n : Nat) (a b : Surd n) : surdLt n a b = true ↔ surdValue n a < surdValue n b := by
  rw [surdLt, beq_iff_eq, (surdSign_isSign n _).eq_one_iff, surdValue_sub, sub_pos]

theorem surdValue_max (n : Nat) (a b : Surd n) : surdValue n (surdMax n a b) = max (surdValue n a) (surdValue n b) := by
  unfold surdMax
  split
  · next h => rw [max_eq_right ((surdLt_iff n a b).1 h).le]
  · next h => rw [max_eq_left (not_lt.1 (mt (surdLt_iff n a b).2 h))]

/-! Weighted sums of a list. -/

/-- The sum of the entries of a list, each times the weight of its place. -/
noncomputable def weightedSum (g : Nat → ℝ) : List Int → ℝ
  | [] => 0
  | c :: cs => c * g 0 + weightedSum (fun j => g (j + 1)) cs

theorem weightedSum_append (g : Nat → ℝ) (l l' : List Int) :
    weightedSum g (l ++ l') = weightedSum g l + weightedSum (fun j => g (j + l.length)) l' := by
  induction l generalizing g with
  | nil => simp [weightedSum]
  | cons c l ih => simp only [List.cons_append, weightedSum, ih, List.length_cons, add_assoc]

theorem weightedSum_replicate_zero (g : Nat → ℝ) (n : Nat) : weightedSum g (List.replicate n 0) = 0 := by
  induction n generalizing g with
  | zero => rfl
  | succ n ih => simp [List.replicate_succ, weightedSum, ih]

theorem weightedSum_modify (g : Nat → ℝ) (l : List Int) {i : Nat} (hi : i < l.length) (x : Int) :
    weightedSum g (l.modify i (fun c => c + x)) = weightedSum g l + x * g i := by
  induction l generalizing g i with
  | nil => simp at hi
  | cons c l ih =>
    cases i with
    | zero => simp only [List.modify_zero_cons, weightedSum, Int.cast_add]; ring
    | succ i => simp only [List.modify_succ_cons, weightedSum, ih _ (Nat.lt_of_succ_lt_succ hi)]; ring

theorem weightedSum_mul_left (z : ℝ) (g : Nat → ℝ) (l : List Int) : weightedSum (fun j => z * g j) l = z * weightedSum g l := by
  induction l generalizing g with
  | nil => simp [weightedSum]
  | cons c l ih => simp only [weightedSum, ih (fun j => g (j + 1))]; ring

/-- A sum over more places than the list has entries. -/
theorem weightedSum_eq_sum_range (g : Nat → ℝ) (l : List Int) {n : Nat} (h : l.length ≤ n) :
    weightedSum g l = ∑ j ∈ Finset.range n, ((l.getD j 0 : Int) : ℝ) * g j := by
  induction l generalizing g n with
  | nil => simp [weightedSum]
  | cons c l ih =>
    obtain ⟨k, rfl⟩ : ∃ k, n = k + 1 := ⟨n - 1, by simp at h; omega⟩
    rw [Finset.sum_range_succ', weightedSum, ih _ (by simpa using h), add_comm]
    simp

/-- Moving the entries by `r` places is moving the weights, where these agree around the end. -/
theorem weightedSum_rotateLeft (g h : Nat → ℝ) (l : List Int) {r : Nat} (hr : r < l.length) (hfront : ∀ j, g (j + r) = h j)
    (hback : ∀ j, h (j + (l.length - r)) = g j) : weightedSum h (l.rotateLeft r) = weightedSum g l := by
  rcases Nat.lt_or_ge 1 l.length with hlong | hshort
  · have hrotate : l.rotateLeft r = l.drop r ++ l.take r := by
      simp [List.rotateLeft, Nat.mod_eq_of_lt hr, not_le.2 hlong]
    conv_rhs => rw [← List.take_append_drop r l]
    rw [hrotate, weightedSum_append, weightedSum_append, List.length_drop, List.length_take, Nat.min_eq_left hr.le]
    simp only [hfront, hback]
    ring
  · obtain rfl : r = 0 := by omega
    have hsame : h = g := funext fun j => (hfront j).symm
    have hrotate : l.rotateLeft 0 = l := by simp [List.rotateLeft, hshort]
    rw [hrotate, hsame]

/-! Sums of cosines. -/

/-- The pair of numbers that Clenshaw's recurrence has come to after the entries of `cs`, the last one first. -/
def clenshawPair (n : Nat) (cs : List Int) : Surd n × Surd n :=
  cs.foldr (fun c s => (surdSub n (surdAdd n (surdOfInt n c) (surdMulGen n s.1)) s.2, s.1)) (surdOfInt n 0, surdOfInt n 0)

theorem clenshawPair_cons (n : Nat) (c : Int) (cs : List Int) :
    clenshawPair n (c :: cs) =
      (surdSub n (surdAdd n (surdOfInt n c) (surdMulGen n (clenshawPair n cs).1)) (clenshawPair n cs).2, (clenshawPair n cs).1) := rfl

theorem cosineSum_eq (n : Nat) (cs : List Int) :
    cosineSum n cs =
      surdSub n (surdAdd n (clenshawPair n cs).1 (clenshawPair n cs).1) (surdMulGen n (clenshawPair n cs).2) := rfl

/-- What the recurrence comes to, for a phase `x`. -/
theorem clenshawPair_spec (n : Nat) (cs : List Int) (x : ℝ) :
    2 * Real.cos x * surdValue n (clenshawPair n cs).1 -
        2 * Real.cos (x - 2 * Real.pi / 2 ^ (n + 2)) * surdValue n (clenshawPair n cs).2 =
      weightedSum (fun j => 2 * Real.cos (j * (2 * Real.pi / 2 ^ (n + 2)) + x)) cs := by
  have hgen : surdGen (n + 2) = 2 * Real.cos (2 * Real.pi / 2 ^ (n + 2)) := rfl
  generalize 2 * Real.pi / 2 ^ (n + 2) = y at *
  induction cs generalizing x with
  | nil => simp [clenshawPair, weightedSum]
  | cons c cs ih =>
    have hnext := ih (x + y)
    rw [add_sub_cancel_right] at hnext
    have hweights : (fun j : Nat => 2 * Real.cos (((j + 1 : Nat) : ℝ) * y + x)) = fun j : Nat => 2 * Real.cos (j * y + (x + y)) := by
      funext j
      push_cast
      congr 2
      ring
    rw [weightedSum, hweights, ← hnext, clenshawPair_cons]
    simp only [surdValue_sub, surdValue_add, surdValue_ofInt, surdValue_mulGen, hgen, Real.cos_add, Real.cos_sub, Nat.cast_zero,
      zero_mul, zero_add]
    ring

/-- The value of a sum of cosines (log 13). -/
theorem surdValue_cosineSum (n : Nat) (cs : List Int) :
    surdValue n (cosineSum n cs) = weightedSum (fun j => 2 * Real.cos (j * (2 * Real.pi / 2 ^ (n + 2)))) cs := by
  have h := clenshawPair_spec n cs 0
  simp only [Real.cos_zero, zero_sub, Real.cos_neg, add_zero, mul_one] at h
  rw [← h, cosineSum_eq]
  simp only [surdValue_sub, surdValue_add, surdValue_mulGen, surdGen]
  ring

/-! The transform. -/

/-- The coefficients collect the samples by their angle (42_demodulator.md R174). -/
theorem weightedSum_binCoefficients (g : Nat → ℝ) {n : Nat} (hn : 0 < n) (k : Nat) (xs : List Int) :
    weightedSum g (binCoefficients n k xs) = weightedSum (fun i => g (k * i % n)) xs := by
  have hfold : ∀ (xs : List Int) (i : Nat) (acc : List Int), acc.length = n →
      weightedSum g ((xs.zipIdx i).foldl (fun acc e => acc.modify ((k * e.2) % n) (fun c => c + e.1)) acc) =
        weightedSum g acc + weightedSum (fun j => g (k * (j + i) % n)) xs := by
    intro xs
    induction xs with
    | nil => intro i acc _; simp [weightedSum]
    | cons x xs ih =>
      intro i acc hacc
      have hlt : k * i % n < acc.length := (Nat.mod_lt _ hn).trans_eq hacc.symm
      rw [List.zipIdx_cons, List.foldl_cons, ih _ _ (by rw [List.length_modify, hacc]), weightedSum_modify _ _ hlt, weightedSum]
      simp only [Nat.zero_add, add_assoc, Nat.add_comm 1 i]
  rw [binCoefficients, hfold xs 0 _ List.length_replicate, weightedSum_replicate_zero, zero_add]
  simp only [Nat.add_zero]

theorem binCoefficients_length (n k : Nat) (xs : List Int) : (binCoefficients n k xs).length = n := by
  have hfold : ∀ (es : List (Int × Nat)) (acc : List Int),
      (es.foldl (fun acc e => acc.modify ((k * e.2) % n) (fun c => c + e.1)) acc).length = acc.length := by
    intro es
    induction es with
    | nil => intro acc; rfl
    | cons e es ih => intro acc; rw [List.foldl_cons, ih, List.length_modify]
  rw [binCoefficients, hfold, List.length_replicate]

/-- Whole circles do not matter. -/
theorem cos_mod_angle {n : Nat} (hn : 0 < n) (a : Nat) (x : ℝ) :
    Real.cos (((a % n : Nat) : ℝ) * (2 * Real.pi / n) + x) = Real.cos (a * (2 * Real.pi / n) + x) := by
  have hn' : (n : ℝ) ≠ 0 := by positivity
  have ha : (a : ℝ) = (a % n : Nat) + n * (a / n : Nat) := by exact_mod_cast (Nat.mod_add_div a n).symm
  rw [ha, show (((a % n : Nat) : ℝ) + n * (a / n : Nat)) * (2 * Real.pi / n) + x =
      ((a % n : Nat) : ℝ) * (2 * Real.pi / n) + x + (a / n : Nat) * (2 * Real.pi) by field_simp; ring, Real.cos_add_nat_mul_two_pi]

/-- The real part of a bin, in the units of the exact arithmetic. -/
noncomputable def scaledRe (n k : Nat) (xs : List Int) : ℝ := weightedSum (fun i => Real.cos ((k * i : Nat) * (2 * Real.pi / n))) xs

/-- The imaginary part of a bin, with the sign changed. -/
noncomputable def scaledIm (n k : Nat) (xs : List Int) : ℝ := weightedSum (fun i => Real.sin ((k * i : Nat) * (2 * Real.pi / n))) xs

theorem surdValue_re (m k : Nat) (xs : List Int) :
    surdValue m (cosineSum m (binCoefficients (2 ^ (m + 2)) k xs)) = 2 * scaledRe (2 ^ (m + 2)) k xs := by
  have hcos := cos_mod_angle (n := 2 ^ (m + 2)) (by positivity)
  push_cast at hcos
  rw [surdValue_cosineSum, weightedSum_binCoefficients _ (by positivity), scaledRe, ← weightedSum_mul_left]
  congr 1
  funext i
  have := hcos (k * i) 0
  rw [add_zero, add_zero] at this
  push_cast at this ⊢
  rw [this]

/-- The coefficients moved by a quarter of the circle give the sines (42_demodulator.md R174). -/
theorem surdValue_im (m k : Nat) (xs : List Int) :
    surdValue m (cosineSum m ((binCoefficients (2 ^ (m + 2)) k xs).rotateLeft (2 ^ m))) = 2 * scaledIm (2 ^ (m + 2)) k xs := by
  have hpow : (2 : ℝ) ^ (m + 2) = 4 * 2 ^ m := by rw [pow_add]; ring
  have hpos : (0 : ℝ) < 2 ^ m := by positivity
  have hlen := binCoefficients_length (2 ^ (m + 2)) k xs
  have hquarter : (2 ^ m : ℝ) * (2 * Real.pi / 2 ^ (m + 2)) = Real.pi / 2 := by rw [hpow]; field_simp; ring
  have hrest : ((2 ^ (m + 2) - 2 ^ m : Nat) : ℝ) * (2 * Real.pi / 2 ^ (m + 2)) = 2 * Real.pi - Real.pi / 2 := by
    rw [Nat.cast_sub (Nat.pow_le_pow_right (by norm_num) (by omega)), sub_mul]
    push_cast
    rw [hquarter, hpow]
    field_simp
  rw [surdValue_cosineSum, weightedSum_rotateLeft (fun j => 2 * Real.cos (j * (2 * Real.pi / 2 ^ (m + 2)) + -(Real.pi / 2))),
    weightedSum_binCoefficients _ (by positivity), scaledIm, ← weightedSum_mul_left]
  · congr 1
    funext i
    have hcos := cos_mod_angle (n := 2 ^ (m + 2)) (by positivity) (k * i) (-(Real.pi / 2))
    push_cast at hcos ⊢
    rw [hcos, ← sub_eq_add_neg, Real.cos_sub_pi_div_two]
  · rw [hlen]
    exact Nat.pow_lt_pow_right (by norm_num) (by omega)
  · intro j
    push_cast
    rw [add_mul, hquarter, add_neg_cancel_right]
  · intro j
    rw [hlen, Nat.cast_add, add_mul, hrest, ← Real.cos_sub_two_pi (_ + (2 * Real.pi - Real.pi / 2))]
    congr 2
    ring

theorem f32Scaled_eq (x : Sample) : ((f32Scaled x : Int) : ℝ) = 2 ^ 149 * realSample x := by
  have hunit : ((2 ^ 149 : Nat) : ℝ) = 2 ^ 149 := by norm_num
  rw [realSample, f32Value, Rat.cast_div, Rat.cast_intCast, Rat.cast_natCast, hunit, mul_div_cancel₀ _ (by positivity)]

theorem getD_map_f32Scaled (w : List Sample) (j : Nat) : (w.map f32Scaled).getD j 0 = f32Scaled (w.getD j 0#32) := by
  have hzero : f32Scaled 0#32 = 0 := by decide
  rw [List.getD_eq_getElem?_getD, List.getD_eq_getElem?_getD, List.getElem?_map]
  cases w[j]? with
  | none => exact hzero.symm
  | some x => rfl

/-- One factor of the transform. -/
theorem exp_angle (n k j : Nat) :
    Complex.exp (-(2 * Real.pi * Complex.I * k * j / n)) =
      Complex.exp (Complex.ofReal (-((k * j : Nat) * (2 * Real.pi / n))) * Complex.I) := by
  congr 1
  push_cast
  ring

theorem exp_angle_re (n k j : Nat) :
    (Complex.exp (-(2 * Real.pi * Complex.I * k * j / n))).re = Real.cos ((k * j : Nat) * (2 * Real.pi / n)) := by
  rw [exp_angle, Complex.exp_ofReal_mul_I_re, Real.cos_neg]

theorem exp_angle_im (n k j : Nat) :
    (Complex.exp (-(2 * Real.pi * Complex.I * k * j / n))).im = -Real.sin ((k * j : Nat) * (2 * Real.pi / n)) := by
  rw [exp_angle, Complex.exp_ofReal_mul_I_im, Real.sin_neg]

theorem realTransform_re (n : Nat) (w : List Sample) (k : Nat) (h : w.length ≤ n) :
    2 ^ 149 * (realTransform n w k).re = scaledRe n k (w.map f32Scaled) := by
  rw [scaledRe, weightedSum_eq_sum_range _ _ (n := n) (by simpa using h), realTransform, Complex.re_sum, Finset.mul_sum]
  refine Finset.sum_congr rfl fun j _ => ?_
  rw [getD_map_f32Scaled, f32Scaled_eq, Complex.re_ofReal_mul, exp_angle_re, mul_assoc]

theorem realTransform_im (n : Nat) (w : List Sample) (k : Nat) (h : w.length ≤ n) :
    2 ^ 149 * (realTransform n w k).im = -scaledIm n k (w.map f32Scaled) := by
  rw [scaledIm, weightedSum_eq_sum_range _ _ (n := n) (by simpa using h), realTransform, Complex.im_sum, Finset.mul_sum,
    ← Finset.sum_neg_distrib]
  refine Finset.sum_congr rfl fun j _ => ?_
  rw [getD_map_f32Scaled, f32Scaled_eq, Complex.im_ofReal_mul, exp_angle_im, mul_neg, mul_neg, mul_assoc]

/-- The exact power is the real power in other units (42_demodulator.md R175). -/
theorem surdValue_binPower (m k : Nat) (w : List Sample) (h : w.length ≤ 2 ^ (m + 2)) :
    surdValue m (binPower m k (w.map f32Scaled)) = (2 ^ 150) ^ 2 * realPower (2 ^ (m + 2)) w k := by
  have hre := realTransform_re (2 ^ (m + 2)) w k h
  have him := realTransform_im (2 ^ (m + 2)) w k h
  simp only [binPower, surdValue_add, surdValue_mul, surdValue_re, surdValue_im, realPower]
  rw [← hre, ← neg_eq_iff_eq_neg.2 him]
  ring

/-! The peaks. -/

theorem lt_foldl_max_iff (f : Nat → ℝ) (ks : List Nat) (a x : ℝ) :
    x < ks.foldl (fun best k => max best (f k)) a ↔ x < a ∨ ∃ k ∈ ks, x < f k := by
  induction ks generalizing a with
  | nil => simp
  | cons k ks ih => rw [List.foldl_cons, ih, lt_max_iff]; simp [or_assoc]

theorem foldl_max_lt_iff (f : Nat → ℝ) (ks : List Nat) (a x : ℝ) :
    ks.foldl (fun best k => max best (f k)) a < x ↔ a < x ∧ ∀ k ∈ ks, f k < x := by
  induction ks generalizing a with
  | nil => simp
  | cons k ks ih => rw [List.foldl_cons, ih, max_lt_iff]; simp [and_assoc]

/-- The peak is the largest of 0 and the powers searched. -/
theorem surdValue_peakPower (m bin : Nat) (xs : List Int) :
    surdValue m (peakPower m bin xs) =
      (searchBins (2 ^ (m + 2)) bin).foldl (fun best k => max best (surdValue m (binPower m k xs))) 0 := by
  have hfold : ∀ (ks : List Nat) (best : Surd m), surdValue m (ks.foldl (fun best k => surdMax m best (binPower m k xs)) best) =
      ks.foldl (fun best k => max best (surdValue m (binPower m k xs))) (surdValue m best) := by
    intro ks
    induction ks with
    | nil => intro best; rfl
    | cons k ks ih => intro best; rw [List.foldl_cons, List.foldl_cons, ih, surdValue_max]
  rw [peakPower, hfold, surdValue_ofInt, Int.cast_zero]

theorem mem_searchBins_iff {n : Nat} (hn : 0 < n) (bin k : Nat) : k ∈ searchBins n bin ↔ inSearchRange n bin k := by
  have hmin : Nat.min (n - 1) (bin + 3) = min (n - 1) (bin + 3) := rfl
  simp only [searchBins, inSearchRange, List.mem_range'_1, Config.searchHalfWidth, hmin]
  omega

/-- A peak is below another one when every power of the one search is below some power of the other. -/
theorem peak_lt_peak_iff {P : Nat → ℝ} (hP : ∀ k, 0 ≤ P k) {ks ks' : List Nat} (hne : ks ≠ []) :
    ks.foldl (fun best k => max best (P k)) 0 < ks'.foldl (fun best k => max best (P k)) 0 ↔
      ∃ k' ∈ ks', ∀ k ∈ ks, P k < P k' := by
  obtain ⟨k0, hk0⟩ := List.exists_mem_of_ne_nil ks hne
  rw [lt_foldl_max_iff]
  simp only [foldl_max_lt_iff]
  constructor
  · rintro (⟨h, -⟩ | ⟨k', hk', -, hall⟩)
    · exact absurd h (lt_irrefl 0)
    · exact ⟨k', hk', hall⟩
  · rintro ⟨k', hk', hall⟩
    exact .inr ⟨k', hk', (hP k0).trans_lt (hall k0 hk0), hall⟩

theorem realPower_nonneg (n : Nat) (w : List Sample) (k : Nat) : 0 ≤ realPower n w k := by
  unfold realPower
  positivity

end Sys2Proof.Machine

namespace Sys2Proof.Proofs
open Sys2Proof.Machine

/-- Settles O42: the exact comparison is that of the values, which are the real powers in other units. -/
theorem detectorComparesRealPeaks : Obligations.DetectorComparesRealPeaks := by
  unfold Obligations.DetectorComparesRealPeaks
  intro p c draw w m hp hn hbin0 hbin1 hlen hfin
  have hlog : Nat.log2 c.fftN - 2 = m := by rw [hn, Nat.log2_two_pow, Nat.add_sub_cancel]
  have hpos : 0 < 2 ^ (m + 2) := by positivity
  have hunit : (0 : ℝ) < (2 ^ 150) ^ 2 := by positivity
  rw [windowBit_of_finite hp c hfin, hlog, surdLt_iff, surdValue_peakPower, surdValue_peakPower]
  rw [hn] at hbin0 hlen ⊢
  have hnonneg : ∀ k, 0 ≤ surdValue m (binPower m k (w.map f32Scaled)) := fun k => by
    rw [surdValue_binPower m k w hlen]
    exact mul_nonneg hunit.le (realPower_nonneg _ _ _)
  -- the space bin itself is searched
  have hne : searchBins (2 ^ (m + 2)) c.bin0 ≠ [] :=
    List.ne_nil_of_mem ((mem_searchBins_iff hpos c.bin0 c.bin0).2 ⟨by omega, by omega, by omega⟩)
  rw [peak_lt_peak_iff hnonneg hne, MarkIsStronger]
  simp only [mem_searchBins_iff hpos, surdValue_binPower m _ w hlen, mul_lt_mul_iff_right₀ hunit]

end Sys2Proof.Proofs
end
